-- ==== Sys2Proof/Word.lean ====
section
/-! DEFINITION. The byte, the block's only machine word (R14). Everything wider is a natural number assembled from bytes (R76), and every index is a natural number (R14, R165). -/

namespace Sys2Proof

/-- A byte: 8 bits, unsigned (R14). -/
abbrev Byte := BitVec 8

end Sys2Proof
end

