-- ==== Sys2Proof/Syntax.lean ====
section
/-! DEFINITION. What the block's instructions are made of: CAN messages, the four wire formats and the port operations of the opcode table, and the inputs the environment presents. -/

namespace Sys2Proof

/-- Identifier type of a CAN message (R32). -/
inductive IdType where
  | standard
  | extended
  deriving DecidableEq, Repr, Inhabited

/-- Frame format of a CAN message (R32). -/
inductive MsgFormat where
  | classic
  | fd
  deriving DecidableEq, Repr, Inhabited

/-- A CAN message, which is also a TX or RX queue element (R32, R33, D40). `nbytes` is derived: `DLC2LEN[dlcCode]`. -/
structure CanMessage where
  /-- 11-bit standard or 29-bit extended identifier. -/
  identifier : BitVec 29
  idType : IdType
  msgFormat : MsgFormat
  /-- the 4-bit code, not the byte count (90_conflicts.md C8) -/
  dlcCode : BitVec 4
  payload : List Byte
  deriving DecidableEq, Repr, Inhabited

/-- A key of the bitrate table (R10 `BITRATE_ROM`: named bitrates; the names themselves carry no meaning). -/
abbrev BitrateName := Nat

/-- One entry of the bitrate table (R38); the widths of the members are not in the source. -/
structure BitrateTuple where
  prescaler : Nat
  syncJumpWidth : Nat
  timeSegment1 : Nat
  timeSegment2 : Nat
  deriving DecidableEq, Repr, Inhabited

/-- An active BitrateConfig (R38). -/
structure TimingPair where
  arbitration : BitrateTuple
  dataPhase : BitrateTuple
  deriving DecidableEq, Repr, Inhabited

/-- The agents that execute steps or act on the block (R8). -/
inductive Agent where
  | host
  | cmdctx
  | bridge
  | isrRx
  | isrTxe
  | isrUsb
  | ctrl
  | init
  deriving DecidableEq, Repr, Inhabited

/-- Sub-causes of the class `InvalidParams` (R280, R283). -/
inductive InvalidCause where
  | emptyPayload
  | unknownCommand
  | lengthMismatch
  | dlcTooLarge
  | idOutOfRange
  deriving DecidableEq, Repr, Inhabited

/-- The seven outcomes of one SCAN step (R146). -/
inductive ScanOutcome where
  | stopEmpty
  | skipNonTag
  | stopShort
  | skipBadLen
  | stopIncomplete
  | skipBadSum
  | accept (plen : Nat)
  deriving DecidableEq, Repr, Inhabited

/-- FORMAT_FRAME's operands (R160): the caller's buffer, with the payload already in it from offset `1 + 2W` on, and the payload's length. -/
structure FormatCall where
  buf : List Byte
  n : Nat
  deriving DecidableEq, Repr, Inhabited

/-- The instructions: one constructor per row of `spec/opcode_table.json`, in the table's order. -/
inductive Instr where
  /-- FRAME: a valid frame at the fetch pointer (R101, R153); length and checksum follow from the payload. -/
  | frame (seq : Nat) (payload : List Byte)
  /-- CONNECT (R112). -/
  | connect (param : Byte)
  /-- CAN_SEND (R113): the identifier field as `IDW` bytes gave it; the DLC is the data length. -/
  | canSend (ident : BitVec 32) (data : List Byte)
  /-- UNKNOWN (R190): any other command id, with the ignored rest of its payload. -/
  | unknown (id : Byte) (rest : List Byte)
  /-- Reports 0x20 to 0x23 (R115, R116): the DLC byte is the data length. -/
  | reportClassicStd (ident : BitVec 32) (data : List Byte)
  | reportClassicExt (ident : BitVec 32) (data : List Byte)
  | reportFdStd (ident : BitVec 32) (data : List Byte)
  | reportFdExt (ident : BitVec 32) (data : List Byte)
  /-- First fragments 0xA0 to 0xA3 (R117): `nbytes` is the total byte count, `data` the first `CAP1` bytes. -/
  | reportFirstClassicStd (ident : BitVec 32) (nbytes : Byte) (data : List Byte)
  | reportFirstClassicExt (ident : BitVec 32) (nbytes : Byte) (data : List Byte)
  | reportFirstFdStd (ident : BitVec 32) (nbytes : Byte) (data : List Byte)
  | reportFirstFdExt (ident : BitVec 32) (nbytes : Byte) (data : List Byte)
  /-- Continuation 0x24 (R118): bytes already sent, and the remaining bytes. -/
  | reportCont (offset : Byte) (data : List Byte)
  /-- The keep-alive packet (R120). -/
  | keepAlive
  /-- INIT (R334) with the environment's `init_ok`. -/
  | init (initOk : Bool)
  /-- INGRESS (R168): the bytes one transport read returned. -/
  | ingress (transfer : List Byte)
  | receive (bytes : List Byte)
  | process
  | scan
  | formatFrame (call : FormatCall)
  | dispatch (n : Nat)
  | configure (arb data : BitrateName)
  | start
  | stop
  | send (m : CanMessage)
  /-- RX_ISR (R220): the message `ctrl.rx_pop` returns. -/
  | rxIsr (m : CanMessage)
  | txeIsr
  | taskWait
  | taskTx
  | taskRx
  | report (m : CanMessage)
  /-- EMIT (R265) with the `transport_available` the environment presents. -/
  | emit (pkt : List Byte) (available : Bool)
  | transportReady
  deriving DecidableEq, Repr, Inhabited

/-- The formats of the opcode table: which map byte 0 is looked up in (R101, R110, R120, R128). -/
inductive WireFormat where
  | frame
  | cmdH2D
  | cmdD2H
  | packet
  | op
  deriving DecidableEq, Repr, Inhabited

/-- Operands of a port operation: calls at the block's boundary have no wire encoding (R128), so they are typed. -/
structure OpArgs where
  bytes : List Byte
  msg : CanMessage
  arb : BitrateName
  dataRate : BitrateName
  len : Nat
  flag : Bool
  deriving DecidableEq, Repr, Inhabited

/-- An encoded instruction: the format, its bytes (for a port operation the op-select byte), and a port operation's operands. -/
structure Encoded where
  wireFormat : WireFormat
  bytes : List Byte
  args : OpArgs
  deriving DecidableEq, Repr, Inhabited

/-- The environment's answers at one step (R300), each a free choice at the step that reads it, and who makes the step's call. -/
structure Env where
  /-- the agent that calls the presented operation (R310): the parser's operations depend on it, since LOCK's owner is an agent (R28) -/
  caller : Agent
  ctrlIdle : Bool
  configureOk : Bool
  startOk : Bool
  armOk : Bool
  disarmOk : Bool
  stopOk : Bool
  transportAvailable : Bool
  /-- what a second EMIT of the same step reads (two fragments with ATOMIC_OPS = on) -/
  transportAgain : Bool
  deriving DecidableEq, Repr, Inhabited

/-- What the scheduler and the environment choose for one step (R300, U18): an operation or event is presented, or a task that is inside an operation takes its next atomic step. -/
inductive Choice where
  | call (e : Encoded)
  | resume (a : Agent)
  deriving DecidableEq, Repr, Inhabited

/-- One step's inputs: the choice, and the environment's answers. -/
structure Stimulus where
  choice : Choice
  env : Env
  deriving DecidableEq, Repr, Inhabited

end Sys2Proof
end

