-- ==== Sys2Proof/Config.lean ====
section
/-! DEFINITION. The configuration record of R10, the constraints R11 to R13 on it, the configuration the reset state carries, and the free values. -/

namespace Sys2Proof

/-- The two field-width profiles (R10: `W`, `IDW` are 2 or 4). -/
inductive Width where
  | two
  | four
  deriving DecidableEq, Repr, Inhabited

/-- The width in bytes. -/
def Width.bytes : Width → Nat
  | .two => 2
  | .four => 4

/-- What RECEIVE does when the ring is full (R10, R141, R142). -/
inductive FullPolicy where
  | reject
  | overwrite
  deriving DecidableEq, Repr, Inhabited

/-- What CAN_SEND does with an identifier wider than its type allows (R10, R187). -/
inductive IdRangePolicy where
  | drop
  | mask
  deriving DecidableEq, Repr, Inhabited

/-- How a report longer than one packet is emitted (R10, R260, R261). -/
inductive FragMode where
  | twoPacket
  | refuse
  deriving DecidableEq, Repr, Inhabited

/-- The parameters of R10; none changes during a run. `TXQ_CAP` and `RXQ_CAP` are 3 and `TAG` is 0xFF in every build. -/
structure Config where
  /-- `W` -/
  w : Width
  /-- `CAP` -/
  cap : Nat
  /-- `CMD_MAX` -/
  cmdMax : Nat
  fullPolicy : FullPolicy
  lenPrefix : Bool
  /-- `IDW` -/
  idw : Width
  /-- `EGQ_CAP` -/
  egqCap : Nat
  /-- `PKT` -/
  pkt : Nat
  keepAlive : Bool
  /-- `BITRATE_ROM`, a finite partial map -/
  bitrateRom : List (BitrateName × BitrateTuple)
  defaultArb : BitrateName
  defaultData : BitrateName
  idRangePolicy : IdRangePolicy
  fragMode : FragMode
  atomicOps : Bool
  deriving DecidableEq, Repr, Inhabited

/-- `TAG` (R10, D5): the same in both width profiles. -/
def Config.tag : Byte := 0xFF

/-- `TXQ_CAP` (R10). -/
def Config.txqCap : Nat := 3

/-- `RXQ_CAP` (R10). -/
def Config.rxqCap : Nat := 3

/-- `OVH`: tag, length, sequence and checksum widths (R10). -/
def Config.ovh (c : Config) : Nat := 2 + 2 * c.w.bytes

/-- `SEQ` counts modulo this (R27). -/
def Config.seqMod (c : Config) : Nat := 2 ^ (8 * c.w.bytes)

/-- `CAP1`: CAN payload bytes that fit one packet (R255). -/
def Config.cap1 (c : Config) : Nat := c.pkt - c.ovh - 6

/-- The size constraints R11 and R13 (D43); a configuration outside them is refused (U5). -/
abbrev Config.sizesOk (c : Config) : Prop :=
  c.ovh + 1 ≤ c.cap ∧ c.cap - 1 ≤ c.seqMod - 1 ∧ c.ovh + 14 ≤ c.pkt ∧ 72 ≤ 2 * (c.pkt - c.ovh) ∧ 1 ≤ c.egqCap

/-- FORMAT_FRAME's requirement (R160): a frame with `n` payload bytes fits the buffer and the length field. -/
abbrev Config.frameFits (c : Config) (size n : Nat) : Prop := c.ovh + n ≤ size ∧ c.ovh + n ≤ c.seqMod - 1

/-- The constraint R12: every accepted payload fits the command buffer. -/
abbrev Config.payloadFits (c : Config) : Prop := c.cap - 1 - c.ovh ≤ c.cmdMax

/-- A well-formed configuration (R337 iv: R11 to R13). -/
abbrev Config.wf (c : Config) : Prop := c.sizesOk ∧ c.payloadFits

/-- FREE VALUE: the timing tuples of the bitrate table, which the source does not give (R10, R38, U8). -/
opaque Config.romTiming : BitrateName → BitrateTuple

/-- FREE VALUE: the inputs and scheduler choices nobody placed, one per step (R300, U18). -/
opaque Config.envStream : Nat → Stimulus

/-- DESIGN CHOICE: the build the reset state carries. The source gives no sizes; these are the ones `95_test_vectors.md` takes "unless a vector says otherwise". Every statement is about all configurations. -/
def Config.build : Config :=
  { w := .two
    cap := 64
    cmdMax := 64
    fullPolicy := .reject
    lenPrefix := false
    idw := .two
    egqCap := 2
    pkt := 64
    keepAlive := false
    bitrateRom := [(0, Config.romTiming 0), (1, Config.romTiming 1)]
    defaultArb := 0
    defaultData := 1
    idRangePolicy := .drop
    fragMode := .twoPacket
    atomicOps := false }

end Sys2Proof
end

