-- ==== Sys2Proof/Machine/Bytes.lean ====
section
/-! DEFINITION. Byte-string helpers (R14, R15, R74) and the DLC table (R125). -/

namespace Sys2Proof

/-- `LE_k(v)`: the `k`-byte little-endian string of `v` (R15). -/
def leBytes : Nat → Nat → List Byte
  | 0, _ => []
  | k + 1, v => BitVec.ofNat 8 v :: leBytes k (v / 256)

/-- `unLE(b)`: the inverse of `leBytes` (R15). -/
def unLE : List Byte → Nat
  | [] => 0
  | b :: bs => b.toNat + 256 * unLE bs

/-- `sum8(b)`: the sum of the bytes modulo 256 (R15). -/
def sum8 : List Byte → Byte
  | [] => 0
  | b :: bs => b + sum8 bs

/-- The substring of `n` bytes from index `i` (R14). -/
def slice (bs : List Byte) (i n : Nat) : List Byte := (bs.drop i).take n

/-- `DLC2LEN` (R125). -/
def dlc2len (code : BitVec 4) : Nat :=
  match code.toNat with
  | 9 => 12
  | 10 => 16
  | 11 => 20
  | 12 => 24
  | 13 => 32
  | 14 => 48
  | 15 => 64
  | n => n

/-- `nbytes` of a message (R32, R254). -/
def CanMessage.nbytes (m : CanMessage) : Nat := dlc2len m.dlcCode

end Sys2Proof
end

