-- ==== Sys2Proof/WellFormed.lean ====
section
/-! DEFINITION. Which messages and instructions are well formed: the ranges the spec gives each operand. -/

namespace Sys2Proof

/-- A well-formed CanMessage (R32, R262): classic codes are at most 8, the payload has `nbytes` bytes, a standard identifier has 11 bits. -/
abbrev CanMessage.wf (m : CanMessage) : Prop :=
  (m.msgFormat = .classic → m.dlcCode.toNat ≤ 8) ∧ m.payload.length = m.nbytes ∧
    (m.idType = .standard → m.identifier.toNat ≤ 0x7FF)

/-- The identifier field of a report holds an 11-bit or a 29-bit value (R115). -/
def identFits : IdType → BitVec 32 → Bool
  | .standard, ident => decide (ident.toNat ≤ 0x7FF)
  | .extended, ident => decide (ident.toNat ≤ 0x1FFFFFFF)

/-- The byte counts the DLC table gives a format (R32, R125). -/
def countFits : MsgFormat → Nat → Bool
  | .classic, n => decide (n ≤ 8)
  | .fd, n => decide (n ≤ 8 ∨ n = 12 ∨ n = 16 ∨ n = 20 ∨ n = 24 ∨ n = 32 ∨ n = 48 ∨ n = 64)

/-- A well-formed single-packet report (R115, R255). -/
def reportFits (c : Config) (f : MsgFormat) (t : IdType) (ident : BitVec 32) (data : List Byte) : Bool :=
  identFits t ident && countFits f data.length && decide (data.length ≤ c.cap1)

/-- A well-formed first fragment (R117): the total count is one of the DLC table's and more than one packet holds, the data are the first `CAP1` bytes. -/
def firstFits (c : Config) (f : MsgFormat) (t : IdType) (ident : BitVec 32) (nbytes : Byte) (data : List Byte) : Bool :=
  identFits t ident && countFits f nbytes.toNat && decide (c.cap1 < nbytes.toNat) && decide (data.length = c.cap1)

/-- A well-formed instruction of a build: every operand in the range the spec gives it. -/
def Instr.wf (c : Config) : Instr → Bool
  | .frame seq payload => decide (seq < c.seqMod) && decide (c.ovh + payload.length ≤ c.cap - 1)
  | .connect _ => true
  | .canSend ident data => decide (ident.toNat < 2 ^ (8 * c.idw.bytes)) && decide (data.length ≤ 8)
  | .unknown id _ => decide (id ≠ 0x01) && decide (id ≠ 0x10)
  | .reportClassicStd ident data => reportFits c .classic .standard ident data
  | .reportClassicExt ident data => reportFits c .classic .extended ident data
  | .reportFdStd ident data => reportFits c .fd .standard ident data
  | .reportFdExt ident data => reportFits c .fd .extended ident data
  | .reportFirstClassicStd ident n data => firstFits c .classic .standard ident n data
  | .reportFirstClassicExt ident n data => firstFits c .classic .extended ident n data
  | .reportFirstFdStd ident n data => firstFits c .fd .standard ident n data
  | .reportFirstFdExt ident n data => firstFits c .fd .extended ident n data
  | .reportCont offset data =>
    decide (offset.toNat = c.cap1) && decide (0 < data.length) && decide (offset.toNat + data.length ≤ 64)
  | .keepAlive => true
  | .init _ => true
  | .ingress _ => true
  | .receive _ => true
  | .process => true
  | .scan => true
  | .formatFrame call => decide (c.frameFits call.buf.length call.n)
  | .dispatch n => decide (n ≤ c.cmdMax)
  | .configure _ _ => true
  | .start => true
  | .stop => true
  | .send m => decide m.wf
  | .rxIsr m => decide m.wf
  | .txeIsr => true
  | .taskWait => true
  | .taskTx => true
  | .taskRx => true
  | .report m => decide m.wf
  | .emit pkt _ => decide (pkt.length = c.pkt)
  | .transportReady => true

end Sys2Proof
end

