-- ==== Sys2Proof/Decode.lean ====
section
/-! DEFINITION. The decoders of the five formats of the opcode table, total on any bytes and refusing by name; then the encoders. -/

namespace Sys2Proof

/-- Why bytes are no instruction of their format. -/
inductive DecodeError where
  /-- no valid frame begins here (R108): which of the scanner's six non-accepting outcomes applies -/
  | notAFrame (o : ScanOutcome)
  /-- a host-to-device payload the dispatcher ignores (R180 to R186) -/
  | invalidParams (c : InvalidCause)
  /-- not the layout of a device-to-host payload (R115 to R118) -/
  | malformedReport
  /-- not `PKT` zero bytes (R120) -/
  | notKeepAlive
  /-- no op-select index of R128 -/
  | unknownOpSelect
  deriving DecidableEq, Repr, Inhabited

/-! ### Frames -/

/-- The scanner's tests on the unread bytes, in the order of R146: the sequence field and the payload of a valid frame at their head, or the first outcome that applies (R152, R147 to R151, R153). -/
def scanBytes (c : Config) : List Byte → Except ScanOutcome (Nat × List Byte)
  | [] => .error .stopEmpty
  | b :: bs =>
    if b ≠ Config.tag then .error .skipNonTag
    else if (b :: bs).length < c.ovh then .error .stopShort
    else
      let len := unLE (slice (b :: bs) 1 c.w.bytes)
      if len < c.ovh ∨ len > c.cap - 1 then .error .skipBadLen
      else if (b :: bs).length < len then .error .stopIncomplete
      else if sum8 ((b :: bs).take len) ≠ 0 then .error .skipBadSum
      else .ok (unLE (slice (b :: bs) (1 + c.w.bytes) c.w.bytes), slice (b :: bs) (1 + 2 * c.w.bytes) (len - c.ovh))

/-- FRAME (R108): the bytes from the fetch pointer on. -/
def decodeFrame (c : Config) (bs : List Byte) : Except DecodeError Instr :=
  match scanBytes c bs with
  | .error o => .error (.notAFrame o)
  | .ok (seq, payload) => .ok (.frame seq payload)

/-! ### Host-to-device commands -/

/-- A decoded host-to-device payload (R110, R111, R123). -/
inductive Command where
  | connect (param : Byte)
  | canSend (ident : BitVec 32) (data : List Byte)
  | unknown (id : Byte) (rest : List Byte)
  deriving DecidableEq, Repr, Inhabited

/-- The instruction a command is. -/
def Command.toInstr : Command → Instr
  | .connect p => .connect p
  | .canSend ident data => .canSend ident data
  | .unknown id rest => .unknown id rest

/-- CONNECT's payload after the id: exactly one byte (R112, R183). -/
def decodeConnect : List Byte → Except InvalidCause Command
  | [p] => .ok (.connect p)
  | _ => .error .lengthMismatch

/-- CAN_SEND's payload after the id, tested in the order of R186: range of length, DLC, exact length. -/
def decodeCanSend (c : Config) (rest : List Byte) : Except InvalidCause Command :=
  let n := rest.length + 1
  if n < 2 + c.idw.bytes ∨ n > 2 + c.idw.bytes + 8 then .error .lengthMismatch
  else
    match rest.drop c.idw.bytes with
    | [] => .error .lengthMismatch
    | dlc :: data =>
      if dlc.toNat > 8 then .error .dlcTooLarge
      else if n ≠ 2 + c.idw.bytes + dlc.toNat then .error .lengthMismatch
      else .ok (.canSend (BitVec.ofNat 32 (unLE (rest.take c.idw.bytes))) data)

/-- The command a payload is, by its first byte (R110, R180). -/
def decodeCommand (c : Config) : List Byte → Except InvalidCause Command
  | [] => .error .emptyPayload
  | id :: rest =>
    if id = 0x01 then decodeConnect rest
    else if id = 0x10 then decodeCanSend c rest
    else .ok (.unknown id rest)

/-! ### Device-to-host payloads -/

/-- Reports 0x20 to 0x23, first fragments 0xA0 to 0xA3 and the continuation 0x24 (R115 to R118). DESIGN CHOICE (log 29): the field layout alone decides; an identifier, a count or an offset outside what REPORT produces is an operand like any other. -/
def decodeReport (c : Config) : List Byte → Except DecodeError Instr
  | id :: b1 :: rest =>
    if id = 0x24 then .ok (.reportCont b1 rest)
    else
      match rest with
      | b2 :: b3 :: b4 :: dlc :: data =>
        let ident : BitVec 32 := BitVec.ofNat 32 (unLE [b1, b2, b3, b4])
        if id = 0x20 ∧ data.length = dlc.toNat then .ok (.reportClassicStd ident data)
        else if id = 0x21 ∧ data.length = dlc.toNat then .ok (.reportClassicExt ident data)
        else if id = 0x22 ∧ data.length = dlc.toNat then .ok (.reportFdStd ident data)
        else if id = 0x23 ∧ data.length = dlc.toNat then .ok (.reportFdExt ident data)
        else if id = 0xA0 ∧ data.length = c.cap1 then .ok (.reportFirstClassicStd ident dlc data)
        else if id = 0xA1 ∧ data.length = c.cap1 then .ok (.reportFirstClassicExt ident dlc data)
        else if id = 0xA2 ∧ data.length = c.cap1 then .ok (.reportFirstFdStd ident dlc data)
        else if id = 0xA3 ∧ data.length = c.cap1 then .ok (.reportFirstFdExt ident dlc data)
        else .error .malformedReport
      | _ => .error .malformedReport
  | _ => .error .malformedReport

/-! ### Packets and port operations -/

/-- The keep-alive packet: `PKT` bytes of zero (R120). -/
def decodePacket (c : Config) (bs : List Byte) : Except DecodeError Instr :=
  if bs = List.replicate c.pkt 0 then .ok .keepAlive else .error .notKeepAlive

/-- A port operation by its op-select index (R128). -/
def decodeOp (a : OpArgs) : List Byte → Except DecodeError Instr
  | [sel] =>
    if sel = 0x00 then .ok (.init a.flag)
    else if sel = 0x01 then .ok (.ingress a.bytes)
    else if sel = 0x02 then .ok (.receive a.bytes)
    else if sel = 0x03 then .ok .process
    else if sel = 0x04 then .ok .scan
    else if sel = 0x05 then .ok (.formatFrame { buf := a.bytes, n := a.len })
    else if sel = 0x06 then .ok (.dispatch a.len)
    else if sel = 0x10 then .ok (.configure a.arb a.dataRate)
    else if sel = 0x11 then .ok .start
    else if sel = 0x12 then .ok .stop
    else if sel = 0x13 then .ok (.send a.msg)
    else if sel = 0x20 then .ok (.rxIsr a.msg)
    else if sel = 0x21 then .ok .txeIsr
    else if sel = 0x30 then .ok .taskWait
    else if sel = 0x31 then .ok .taskTx
    else if sel = 0x32 then .ok .taskRx
    else if sel = 0x40 then .ok (.report a.msg)
    else if sel = 0x41 then .ok (.emit a.bytes a.flag)
    else if sel = 0x42 then .ok .transportReady
    else .error .unknownOpSelect
  | _ => .error .unknownOpSelect

/-- The decoder of every format. -/
def decode (c : Config) (e : Encoded) : Except DecodeError Instr :=
  match e.wireFormat with
  | .frame => decodeFrame c e.bytes
  | .cmdH2D =>
    match decodeCommand c e.bytes with
    | .error cause => .error (.invalidParams cause)
    | .ok cmd => .ok cmd.toInstr
  | .cmdD2H => decodeReport c e.bytes
  | .packet => decodePacket c e.bytes
  | .op => decodeOp e.args e.bytes

/-! ### Encoders -/

/-- The frame of a payload with a sequence number (R101, R107). -/
def frameBytes (c : Config) (seq : Nat) (payload : List Byte) : List Byte :=
  let body := Config.tag :: (leBytes c.w.bytes (c.ovh + payload.length) ++ leBytes c.w.bytes seq ++ payload)
  body ++ [0 - sum8 body]

/-- A report or first-fragment payload (R115, R117). -/
def reportBytes (id : Byte) (ident : BitVec 32) (count : Byte) (data : List Byte) : List Byte :=
  id :: (leBytes 4 ident.toNat ++ count :: data)

/-- A single-packet report's payload: the DLC byte is the byte count (R115, D29). -/
def singleReport (id : Byte) (ident : BitVec 32) (data : List Byte) : List Byte :=
  reportBytes id ident (BitVec.ofNat 8 data.length) data

/-- A continuation payload (R118). -/
def contBytes (offset : Byte) (data : List Byte) : List Byte := 0x24 :: offset :: data

/-- CAN_SEND's payload (R113). -/
def canSendBytes (c : Config) (ident : BitVec 32) (data : List Byte) : List Byte :=
  0x10 :: (leBytes c.idw.bytes ident.toNat ++ BitVec.ofNat 8 data.length :: data)

/-- No operands. -/
def OpArgs.none : OpArgs :=
  { bytes := [], msg := default, arb := 0, dataRate := 0, len := 0, flag := false }

/-- A wire encoding: bytes and no typed operand. -/
def onWire (f : WireFormat) (bs : List Byte) : Encoded := { wireFormat := f, bytes := bs, args := OpArgs.none }

/-- A port operation: its op-select index (R128) and its operands. -/
def portOp (sel : Byte) (a : OpArgs) : Encoded := { wireFormat := .op, bytes := [sel], args := a }

/-- The encoding of an instruction. -/
def encode (c : Config) : Instr → Encoded
  | .frame seq payload => onWire .frame (frameBytes c seq payload)
  | .connect p => onWire .cmdH2D [0x01, p]
  | .canSend ident data => onWire .cmdH2D (canSendBytes c ident data)
  | .unknown id rest => onWire .cmdH2D (id :: rest)
  | .reportClassicStd ident data => onWire .cmdD2H (singleReport 0x20 ident data)
  | .reportClassicExt ident data => onWire .cmdD2H (singleReport 0x21 ident data)
  | .reportFdStd ident data => onWire .cmdD2H (singleReport 0x22 ident data)
  | .reportFdExt ident data => onWire .cmdD2H (singleReport 0x23 ident data)
  | .reportFirstClassicStd ident n data => onWire .cmdD2H (reportBytes 0xA0 ident n data)
  | .reportFirstClassicExt ident n data => onWire .cmdD2H (reportBytes 0xA1 ident n data)
  | .reportFirstFdStd ident n data => onWire .cmdD2H (reportBytes 0xA2 ident n data)
  | .reportFirstFdExt ident n data => onWire .cmdD2H (reportBytes 0xA3 ident n data)
  | .reportCont offset data => onWire .cmdD2H (contBytes offset data)
  | .keepAlive => onWire .packet (List.replicate c.pkt 0)
  | .init ok => portOp 0x00 { OpArgs.none with flag := ok }
  | .ingress t => portOp 0x01 { OpArgs.none with bytes := t }
  | .receive b => portOp 0x02 { OpArgs.none with bytes := b }
  | .process => portOp 0x03 OpArgs.none
  | .scan => portOp 0x04 OpArgs.none
  | .formatFrame call => portOp 0x05 { OpArgs.none with bytes := call.buf, len := call.n }
  | .dispatch n => portOp 0x06 { OpArgs.none with len := n }
  | .configure arb data => portOp 0x10 { OpArgs.none with arb := arb, dataRate := data }
  | .start => portOp 0x11 OpArgs.none
  | .stop => portOp 0x12 OpArgs.none
  | .send m => portOp 0x13 { OpArgs.none with msg := m }
  | .rxIsr m => portOp 0x20 { OpArgs.none with msg := m }
  | .txeIsr => portOp 0x21 OpArgs.none
  | .taskWait => portOp 0x30 OpArgs.none
  | .taskTx => portOp 0x31 OpArgs.none
  | .taskRx => portOp 0x32 OpArgs.none
  | .report m => portOp 0x40 { OpArgs.none with msg := m }
  | .emit pkt available => portOp 0x41 { OpArgs.none with bytes := pkt, flag := available }
  | .transportReady => portOp 0x42 OpArgs.none

/-! ### The opcode table's words -/

/-- Byte 0 of each row as `spec/opcode_table.json` fixes it; UNKNOWN and KEEPALIVE have no fixed byte there (any other id; zero). -/
def Instr.matchByte : Instr → Byte
  | .frame _ _ => 0xFF
  | .connect _ => 0x01
  | .canSend _ _ => 0x10
  | .unknown id _ => id
  | .reportClassicStd _ _ => 0x20
  | .reportClassicExt _ _ => 0x21
  | .reportFdStd _ _ => 0x22
  | .reportFdExt _ _ => 0x23
  | .reportFirstClassicStd _ _ _ => 0xA0
  | .reportFirstClassicExt _ _ _ => 0xA1
  | .reportFirstFdStd _ _ _ => 0xA2
  | .reportFirstFdExt _ _ _ => 0xA3
  | .reportCont _ _ => 0x24
  | .keepAlive => 0x00
  | .init _ => 0x00
  | .ingress _ => 0x01
  | .receive _ => 0x02
  | .process => 0x03
  | .scan => 0x04
  | .formatFrame _ => 0x05
  | .dispatch _ => 0x06
  | .configure _ _ => 0x10
  | .start => 0x11
  | .stop => 0x12
  | .send _ => 0x13
  | .rxIsr _ => 0x20
  | .txeIsr => 0x21
  | .taskWait => 0x30
  | .taskTx => 0x31
  | .taskRx => 0x32
  | .report _ => 0x40
  | .emit _ _ => 0x41
  | .transportReady => 0x42

/-- DESIGN CHOICE: the format a bare table word is read in. The table's 8-bit words overlap between formats; an encoding the hardware has (R101, R110) is preferred to an op-select index, which it does not have (R128). -/
def wordFormat (b : Byte) : WireFormat :=
  if b = 0xFF then .frame
  else if b = 0x01 ∨ b = 0x10 then .cmdH2D
  else if b = 0x20 ∨ b = 0x21 ∨ b = 0x22 ∨ b = 0x23 ∨ b = 0x24 then .cmdD2H
  else if b = 0xA0 ∨ b = 0xA1 ∨ b = 0xA2 ∨ b = 0xA3 then .cmdD2H
  else if b = 0x00 ∨ b = 0x02 ∨ b = 0x03 ∨ b = 0x04 ∨ b = 0x05 ∨ b = 0x06 then .op
  else if b = 0x11 ∨ b = 0x12 ∨ b = 0x13 then .op
  else if b = 0x30 ∨ b = 0x31 ∨ b = 0x32 then .op
  else if b = 0x40 ∨ b = 0x41 ∨ b = 0x42 then .op
  else .cmdH2D

/-- The bytes of a word of `nbits` bits, byte 0 first. -/
def wordBytes (nbits w : Nat) : List Byte := leBytes (max 1 ((nbits + 7) / 8)) w

/-- Zero bytes up to the length `n`. -/
def padTo (n : Nat) (bs : List Byte) : List Byte := bs ++ List.replicate (n - bs.length) 0

/-- How many bytes a wire instruction that begins with these has at least: header, then what its own length byte says. -/
def wireLength (c : Config) (bs : List Byte) : Nat :=
  let id := bs.headD 0
  if id = 0xFF then c.ovh
  else if id = 0x01 then 2
  else if id = 0x10 then 2 + c.idw.bytes + (bs.getD (1 + c.idw.bytes) 0).toNat
  else if id = 0x20 ∨ id = 0x21 ∨ id = 0x22 ∨ id = 0x23 then 6 + (bs.getD 5 0).toNat
  else if id = 0xA0 ∨ id = 0xA1 ∨ id = 0xA2 ∨ id = 0xA3 then 6 + c.cap1
  else if id = 0x24 then 2
  else 1

/-- A table word as an encoded instruction, operands beyond it zero (an EMIT's packet and FORMAT_FRAME's buffer are `PKT` zero bytes). -/
def wordEncoded (c : Config) (nbits w : Nat) : Encoded :=
  let bs := wordBytes nbits w
  match wordFormat (bs.headD 0) with
  | .op => { wireFormat := .op, bytes := bs, args := { OpArgs.none with bytes := if bs.headD 0 = 0x41 ∨ bs.headD 0 = 0x05 then List.replicate c.pkt 0 else [] } }
  | f => onWire f (padTo (wireLength c bs) bs)

/-- The instruction the decoder reads from a word of the opcode table, in the reset state's build. -/
def decodeTableWord (nbits w : Nat) : Option Instr :=
  match decode Config.build (wordEncoded Config.build nbits w) with
  | .ok i => some i
  | .error _ => none

end Sys2Proof
end

