-- ==== Sys2Proof/Machine/State.lean ====
section
/-! DEFINITION. The machine's state as plain data (R20, R50), its faults and refusals, and the state after reset. -/

namespace Sys2Proof.Machine

/-- A byte space as the cells that hold a value, addresses strictly rising. A cell that is not listed was never written and has no value (R22, R26, U2). -/
abbrev Memory := List Host.Cell

/-- The canonical form: strictly rising addresses. -/
abbrev Memory.wf (m : Memory) : Prop := m.Pairwise (fun a b => a.1 < b.1)

/-- The recursive lock (R28). -/
structure Lock where
  owner : Option Agent
  depth : Nat
  deriving DecidableEq, Repr, Inhabited

/-- The bridge state register `BST` (R37). -/
inductive BridgeState where
  | ready
  | configured
  | started
  | halted
  deriving DecidableEq, Repr, Inhabited

/-- The two notification bits (R42), and a set of them taken by TASK_WAIT (R46). -/
structure Notif where
  txReady : Bool
  rxAvail : Bool
  deriving DecidableEq, Repr, Inhabited

/-- The bridge task's progress marker (R46); the last three stand inside REPORT. -/
inductive BridgePc where
  | wait
  | tx1 (pending : Notif)
  | tx2 (pending : Notif) (e : Option CanMessage)
  | rx (pending : Notif)
  /-- REPORT has payloads left to format (R252, R260) -/
  | format (payloads : List (List Byte))
  /-- a packet is formatted and EMIT is next, then the payloads left -/
  | emit (pkt : List Byte) (payloads : List (List Byte))
  /-- the first packet of a fragmented report is emitted and the payloads left are to be formatted (R260) -/
  | second (payloads : List (List Byte))
  deriving DecidableEq, Repr, Inhabited

/-- What the command context still has to do, innermost first (R46: `SEND2` and the call stack). `cmd` says whether a wire command (or a direct call) is to return. -/
inductive CmdFrame where
  /-- PROCESS runs the next SCAN (R155) -/
  | process
  /-- SCAN awaits its handler's return: then `RD` advances by `len` (R153) -/
  | scanReturn (len plen : Nat)
  /-- CONNECT goes on to START (R183) -/
  | connectStart
  /-- SEND step S2 (R212) -/
  | send2 (cmd : Bool)
  /-- STOP steps 2 and 3 (R208) -/
  | stop2 (cmd : Bool)
  | stop3 (cmd : Bool)
  deriving DecidableEq, Repr, Inhabited

/-- DISPATCH's status (R180, D15). -/
inductive Status where
  | done
  | ignored
  deriving DecidableEq, Repr, Inhabited

/-- The result of the operation that last returned one. -/
inductive Ret where
  | none
  | bool (b : Bool)
  | status (s : Status)
  | outcome (o : ScanOutcome)
  | length (n : Nat)
  deriving DecidableEq, Repr, Inhabited

/-- Sub-causes of `StreamCorruption` (R280). -/
inductive StreamCause where
  | nonTag
  | badLength
  | badChecksum
  deriving DecidableEq, Repr, Inhabited

/-- Sub-causes of `Backpressure` (R280); `ringFull` carries `accepted_bytes` (R141). -/
inductive PressureCause where
  | ringFull (accepted : Nat)
  | ringOverwrite
  | txQueueFull
  | rxQueueFull
  | egressQueueFull
  deriving DecidableEq, Repr, Inhabited

/-- Sub-causes of `ConfigFailure` (R280). -/
inductive ConfigCause where
  | notIdle
  | badTimingEntry
  | peripheral
  | badState
  deriving DecidableEq, Repr, Inhabited

/-- An event of one of the five error classes (R280). -/
inductive Raised where
  | streamCorruption (c : StreamCause)
  | backpressure (c : PressureCause)
  | invalidParams (c : InvalidCause)
  | configFailure (c : ConfigCause)
  /-- FatalInit(PrimitiveCreation) -/
  | fatalInit
  deriving DecidableEq, Repr, Inhabited

/-- The block's outputs (R300, R200); a capability call is listed with the environment's answer. -/
inductive Output where
  | ctrlConfigure (t : TimingPair) (ok : Bool)
  | ctrlStart (ok : Bool)
  | ctrlArm (ok : Bool)
  | ctrlDisarm (ok : Bool)
  | ctrlStop (ok : Bool)
  | ctrlSubmit (m : CanMessage)
  | ctrlRxPop (m : CanMessage)
  | transportWrite (pkt : List Byte)
  deriving DecidableEq, Repr, Inhabited

/-- The machine's state: every piece the spec names, then the model's own fields. -/
structure State where
  /-- `RING` (R22) -/
  ring : Memory
  /-- `WR` (R23) -/
  wr : Nat
  /-- `RD`, the fetch pointer (R24) -/
  rd : Nat
  /-- `CMD` (R26) -/
  cmd : Memory
  /-- how many bytes SCAN's last accepted payload has in `CMD`; DISPATCH reads none past them (R26) -/
  cmdLen : Nat
  /-- `SEQ` (R27) -/
  seq : Nat
  /-- `LOCK` (R28) -/
  lock : Lock
  /-- `TXQ`, oldest first (R34) -/
  txq : List CanMessage
  /-- `RXQ`, oldest first (R35) -/
  rxq : List CanMessage
  /-- `BST` (R37) -/
  bst : BridgeState
  /-- `TIMING` (R38) -/
  timing : Option TimingPair
  /-- `IRQ_EN` (R39) -/
  irqEn : Bool
  /-- `NOTIF_ARMED` (R40) -/
  notifArmed : Bool
  /-- `TX_INFLIGHT` (R41) -/
  txInflight : Bool
  /-- `NOTIF` (R42) -/
  notif : Notif
  /-- `BRIDGE.pc` (R46) -/
  bridge : BridgePc
  /-- `CMDCTX.pc` and its call stack (R46); empty is IDLE -/
  cmdctx : List CmdFrame
  /-- `EGQ`, oldest first (R47) -/
  egq : List (List Byte)
  /-- the caller's buffer as FORMAT_FRAME last left it (R70, R160) -/
  buf : List Byte
  /-- whether INIT has run (R21, R334) -/
  inited : Bool
  /-- the configuration record (R10), constant -/
  cfg : Config
  /-- the environment's answers at this step (R300), and the presented operation's caller (R310) -/
  env : Env
  /-- inputs and scheduler choices placed for the next steps, oldest first -/
  script : List Stimulus
  /-- index into `Config.envStream` of the next input nobody placed -/
  tick : Nat
  /-- the last result returned -/
  ret : Ret
  /-- events raised, oldest first (R15 `raise`) -/
  raised : List Raised
  /-- outputs, oldest first -/
  outputs : List Output
  deriving DecidableEq, Repr, Inhabited

/-- What stops the machine with a fault. -/
inductive Fault where
  /-- R154, R287: SCAN (also inside PROCESS) or FRAME accepted a payload longer than the command buffer, in a configuration outside R12. Safe: the spec says the run ends here. -/
  | cmdBufOverrun
  deriving DecidableEq, Repr, Inhabited

/-- Why a step has no meaning. -/
inductive Refusal where
  /-- `exec`: an instruction the model gives no meaning yet. Safe: nothing is claimed. -/
  | notModelled (mnemonic : String)
  /-- `step`: the configuration is outside R11, R13 (U5). Safe. -/
  | illFormedConfig
  /-- SCAN, PROCESS, FRAME: a byte that nothing has written would be read; DISPATCH: that, or a byte past the payload SCAN last copied to CMD (U2, R26). Safe: no run of the block reads one. -/
  | unwrittenRead
  /-- RX_ISR, REPORT, TASK_RX, SEND: a value that is no well-formed CanMessage (R262, R302, U12). Safe: the environment is constrained not to deliver it. -/
  | illFormedMessage
  /-- REPORT, TASK_RX and the fragments 0xA0 to 0xA3, 0x24 with FRAG_MODE = REFUSE (R261, U6). Safe: the spec refuses the run. -/
  | oversizedReport
  /-- INGRESS, RECEIVE, PROCESS, SCAN, FRAME called by the frame handler (R352); `step`: any operation called by an agent that may not call it (R310, U16). Safe: the model does not offer the call. -/
  | wrongContext
  /-- FORMAT_FRAME and EMIT, and a report longer than a packet: an operand the operation's requirement excludes (R160, R265, R255). Safe. -/
  | operandOutOfRange
  /-- `step`: bytes that are no instruction of their format. Safe. -/
  | undecodable (e : DecodeError)
  deriving DecidableEq, Repr, Inhabited

/-- The answer of an operation. -/
abbrev Res := Host.Outcome State Fault Refusal

/-- DESIGN CHOICE: the answers before any step presents its own: every call succeeds, the controller is idle, the transport available (as `95_test_vectors.md` assumes), and the command context is the caller. Every step presents its own answers. -/
def acceptingEnv : Env :=
  { caller := .cmdctx, ctrlIdle := true, configureOk := true, startOk := true, armOk := true, disarmOk := true, stopOk := true, transportAvailable := true, transportAgain := true }

/-- The block right after a successful INIT in a given build (R50). -/
def State.resetWith (c : Config) : State :=
  { ring := []
    wr := 0
    rd := 0
    cmd := []
    cmdLen := 0
    seq := 0
    lock := { owner := none, depth := 0 }
    txq := []
    rxq := []
    bst := .ready
    timing := none
    irqEn := false
    notifArmed := false
    txInflight := false
    notif := { txReady := false, rxAvail := false }
    bridge := .wait
    cmdctx := []
    egq := []
    buf := []
    inited := true
    cfg := c
    env := acceptingEnv
    script := []
    tick := 0
    ret := .none
    raised := []
    outputs := [] }

/-- The machine after reset (R21: reset is the state right after INIT has completed successfully). -/
def State.reset : State := State.resetWith Config.build

/-- The block before INIT: nothing is enabled but INIT (R21, R334). -/
def State.beforeInit (c : Config) : State := { State.resetWith c with inited := false }

end Sys2Proof.Machine
end

