-- ==== Sys2Proof/Machine/Ops.lean ====
section
/-! DEFINITION. The named operations over memory, registers, the lock and the queues, and the shared form of the block's exceptions: `raise` for the error classes, `takeInterrupt` for the two CAN interrupts. -/

namespace Sys2Proof.Machine

/-! ### Byte spaces -/

/-- The byte a cell holds, or none where nothing has written it (R22, R26). -/
def Memory.read : Memory → Nat → Option Byte
  | [], _ => none
  | (a, b) :: rest, i => if a = i then some b else if i < a then none else Memory.read rest i

/-- Write one cell, keeping the addresses in order. -/
def Memory.write : Memory → Nat → Byte → Memory
  | [], i, v => [(i, v)]
  | (a, b) :: rest, i, v =>
    if i < a then (i, v) :: (a, b) :: rest
    else if a = i then (i, v) :: rest
    else (a, b) :: Memory.write rest i v

/-- `MemWrite` to a linear space (R15). -/
def Memory.writeSeq : Memory → Nat → List Byte → Memory
  | m, _, [] => m
  | m, i, v :: vs => Memory.writeSeq (Memory.write m i v) (i + 1) vs

/-- `MemRead` of a linear space (R15); none if a cell was never written (U2). -/
def Memory.readSeq (m : Memory) : Nat → Nat → Option (List Byte)
  | _, 0 => some []
  | i, n + 1 =>
    match Memory.read m i, Memory.readSeq m (i + 1) n with
    | some b, some bs => some (b :: bs)
    | _, _ => none

/-- `MemRead(RING, a, n)`: byte `k` is at index `(a + k) mod CAP` (R72). -/
def Memory.readRing (m : Memory) (cap : Nat) : Nat → Nat → Option (List Byte)
  | _, 0 => some []
  | i, n + 1 =>
    match Memory.read m (i % cap), Memory.readRing m cap (i + 1) n with
    | some b, some bs => some (b :: bs)
    | _, _ => none

/-- The payload DISPATCH(n) reads, `CMD[0 .. n-1]` (R180); none where `n` passes the payload SCAN last copied (R26) or a byte was never written (U2). -/
def State.payload (s : State) (n : Nat) : Option (List Byte) :=
  if n ≤ s.cmdLen then s.cmd.readSeq 0 n else none

/-! ### Ring registers -/

/-- `used = (WR - RD) mod CAP` (R15, R25). -/
def State.used (s : State) : Nat := (s.wr + s.cfg.cap - s.rd) % s.cfg.cap

/-- `free = CAP - 1 - used` (R15). -/
def State.free (s : State) : Nat := s.cfg.cap - 1 - s.used

/-- The unread bytes, oldest first (R25 iv); none if one of them was never written. -/
def State.unread (s : State) : Option (List Byte) := s.ring.readRing s.cfg.cap s.rd s.used

/-- `RD <- (RD + n) mod CAP` (R166). -/
def State.advanceRd (s : State) (n : Nat) : State := { s with rd := (s.rd + n) % s.cfg.cap }

/-- `RING[WR] <- b; WR <- (WR + 1) mod CAP` (R141, R142). -/
def State.appendRing (s : State) (b : Byte) : State :=
  { s with ring := s.ring.write s.wr b, wr := (s.wr + 1) % s.cfg.cap }

/-! ### Events, outputs and results -/

/-- `raise E` (R15, R280): the event is recorded and nothing else; no raise transfers control, and the recovery is the raising rule's own. -/
def State.raise (s : State) (e : Raised) : State := { s with raised := s.raised ++ [e] }

/-- An output of the block (R300). -/
def State.emitOutput (s : State) (o : Output) : State := { s with outputs := s.outputs ++ [o] }

/-- An operation returns a result. -/
def State.returns (s : State) (r : Ret) : State := { s with ret := r }

/-! ### Queues -/

/-- `push(Q, e)` (R15, R36): none where the queue is full and stays as it is. -/
def pushBounded {α : Type} (cap : Nat) (q : List α) (e : α) : Option (List α) :=
  if q.length < cap then some (q ++ [e]) else none

/-- `pop(Q)` (R15, R36): the oldest element, if any, and the rest. -/
def popOldest {α : Type} : List α → Option α × List α
  | [] => (none, [])
  | e :: q => (some e, q)

/-! ### The lock -/

/-- The task agents (R44): the ones that may own LOCK (R28) and call the parser (R140, R310). -/
def taskAgent (a : Agent) : Bool := decide (a = .cmdctx ∨ a = .bridge)

/-- `acquire` by a task agent is enabled (R28): nobody or the agent itself owns the lock. -/
def Lock.canAcquire (l : Lock) (a : Agent) : Bool := taskAgent a && decide (l.owner = none ∨ l.owner = some a)

/-- `acquire` (R28). -/
def Lock.acquire (l : Lock) (a : Agent) : Lock := { owner := some a, depth := l.depth + 1 }

/-- `release` by the owner (R28). -/
def Lock.release (l : Lock) : Lock :=
  if l.depth ≤ 1 then { owner := none, depth := 0 } else { l with depth := l.depth - 1 }

/-! ### Enabling -/

/-- INIT has succeeded (R21, R336): outside this no operation but INIT is enabled. -/
def State.running (s : State) : Bool := s.inited && decide (s.bst ≠ .halted)

/-- An operation that is not enabled has no step: the agent waits and nothing changes (R16, U13, R336). -/
def waits (s : State) : Res := .next s

/-- SCAN's handler is running (R153, R352): a `scanReturn` is on the command context's stack. -/
def State.inHandler (s : State) : Bool :=
  s.cmdctx.any fun f => match f with
    | .scanReturn _ _ => true
    | _ => false

/-- The command context is at IDLE (R46). -/
def State.cmdIdle (s : State) : Bool := decide (s.cmdctx = [])

/-- An operation the command context begins: it waits unless the block runs and CMDCTX is IDLE. -/
def whenCmdIdle (s : State) (k : Res) : Res :=
  if s.running && s.cmdIdle then k else waits s

/-- A parser operation the command context begins: refused inside the handler (R352, U16), and it waits for CMDCTX and for LOCK (R28). -/
def whenParserIdle (s : State) (k : Res) : Res :=
  if !s.running then waits s
  else if s.inHandler then .refused .wrongContext
  else if s.cmdIdle && s.lock.canAcquire .cmdctx then k
  else waits s

/-- An operation the bridge task begins when called: it waits unless the block runs and BRIDGE is at WAIT. -/
def whenBridgeIdle (s : State) (k : Res) : Res :=
  if s.running && decide (s.bridge = .wait) then k else waits s

/-- BRIDGE stands between the formatting of a report's first fragment and that of its second (R260). -/
def State.betweenFragments (s : State) : Bool :=
  match s.bridge with
  | .wait => false
  | .tx1 _ => false
  | .tx2 _ _ => false
  | .rx _ => false
  | .format _ => false
  | .emit _ left => !left.isEmpty
  | .second _ => true

/-! ### Exceptions: the two CAN interrupts -/

/-- A CAN interrupt handler is enabled (R291): the line is enabled and the notifications are armed. -/
def State.interruptsEnabled (s : State) : Bool := s.running && s.irqEn && s.notifArmed

/-- TAKING AN INTERRUPT (R296, R298): nothing is saved, switched or masked; the handler runs to completion as one atomic step and returns by finishing it, so nothing is restored. A disabled event is not taken and nothing changes (R291). -/
def takeInterrupt (s : State) (handler : Res) : Res :=
  if s.interruptsEnabled then handler else waits s

end Sys2Proof.Machine
end

