-- ==== Sys2Proof/Machine/Flags.lean ====
section
/-! DEFINITION. The one-bit registers and the notification bits: `signal`, TASK_WAIT's read-and-clear, the interrupt enables, the in-flight flag, and the controller's idle status as CONFIGURE sees it. -/

namespace Sys2Proof.Machine

/-- `signal(NOTIF.TX_READY)` (R15, R42). -/
def State.signalTxReady (s : State) : State := { s with notif := { s.notif with txReady := true } }

/-- `signal(NOTIF.RX_AVAIL)` (R15, R42). -/
def State.signalRxAvail (s : State) : State := { s with notif := { s.notif with rxAvail := true } }

/-- No notification bit is set. -/
def Notif.isEmpty (n : Notif) : Bool := !n.txReady && !n.rxAvail

/-- Both bits cleared (R228). -/
def Notif.clear : Notif := { txReady := false, rxAvail := false }

/-- `NOTIF <- none` (R228). -/
def State.clearNotif (s : State) : State := { s with notif := Notif.clear }

/-- `TX_INFLIGHT <- b` (R231). -/
def State.setInflight (s : State) (b : Bool) : State := { s with txInflight := b }

/-- `IRQ_EN <- b` (R205, R208). -/
def State.setIrqEn (s : State) (b : Bool) : State := { s with irqEn := b }

/-- `NOTIF_ARMED <- b` (R205, R208). -/
def State.setArmed (s : State) (b : Bool) : State := { s with notifArmed := b }

/-- `ctrl_idle` (R301, D20): the environment's choice, but false while the bridge is STARTED. -/
def State.ctrlIdle (s : State) : Bool := s.env.ctrlIdle && decide (s.bst ≠ .started)

end Sys2Proof.Machine
end

