-- ==== Sys2Proof/Machine/Operands.lean ====
section
/-! DEFINITION. Operand forms: the bytes a transport read hands on, the identifier classification, the message CAN_SEND builds, the payloads a report is made of, the packet a payload becomes, and the host's reassembly of two fragments. -/

namespace Sys2Proof.Machine

/-- The bytes of one vendor-endpoint read that go to RECEIVE (R121, R168, D34). -/
def ingressBytes (c : Config) (t : List Byte) : List Byte :=
  if c.lenPrefix then
    match t with
    | [] => []
    | k :: rest => rest.take k.toNat
  else t

/-- `classify` (R187): the identifier type and the identifier of a CAN_SEND message, or none (IDRANGE_POLICY = DROP). -/
def classify (c : Config) (ident : BitVec 32) : Option (IdType × BitVec 29) :=
  match c.idw with
  | .two =>
    if ident.toNat ≤ 0x7FF then some (.standard, BitVec.ofNat 29 ident.toNat)
    else match c.idRangePolicy with
      | .drop => none
      | .mask => some (.standard, BitVec.ofNat 29 (ident.toNat % 0x800))
  | .four =>
    if ident.toNat ≤ 0x7FF then some (.standard, BitVec.ofNat 29 ident.toNat)
    else if ident.toNat ≤ 0x1FFFFFFF then some (.extended, BitVec.ofNat 29 ident.toNat)
    else match c.idRangePolicy with
      | .drop => none
      | .mask => some (.extended, BitVec.ofNat 29 (ident.toNat % 0x20000000))

/-- The message CAN_SEND builds (R186): always classic, the DLC the data length. -/
def canSendMessage (t : IdType) (id : BitVec 29) (data : List Byte) : CanMessage :=
  { identifier := id, idType := t, msgFormat := .classic, dlcCode := BitVec.ofNat 4 data.length, payload := data }

/-- The report command id of a message: 0x20, plus 2 for FD, plus 1 for extended (R116, R253). -/
def reportId (m : CanMessage) : Byte :=
  match m.msgFormat, m.idType with
  | .classic, .standard => 0x20
  | .classic, .extended => 0x21
  | .fd, .standard => 0x22
  | .fd, .extended => 0x23

/-- The identifier zero-extended to the report's 32-bit field (R115). -/
def reportIdent (m : CanMessage) : BitVec 32 := BitVec.ofNat 32 m.identifier.toNat

/-- The payloads REPORT emits for a message (R252): one, or the two fragments of R260, or a refusal (R261, R262). -/
def reportPayloads (c : Config) (m : CanMessage) : Except Refusal (List (List Byte)) :=
  if m.wf then
    if m.nbytes ≤ c.cap1 then
      .ok [reportBytes (reportId m) (reportIdent m) (BitVec.ofNat 8 m.nbytes) (m.payload.take m.nbytes)]
    else
      match c.fragMode with
      | .twoPacket =>
        .ok [reportBytes (reportId m ||| 0x80) (reportIdent m) (BitVec.ofNat 8 m.nbytes) (m.payload.take c.cap1),
          contBytes (BitVec.ofNat 8 c.cap1) ((m.payload.take m.nbytes).drop c.cap1)]
      | .refuse => .error .oversizedReport
  else .error .illFormedMessage

/-- The caller's buffer after FORMAT_FRAME (R160): the frame around the `n` payload bytes that lie in it, the bytes past the frame as they were. -/
def formatBuffer (c : Config) (seq : Nat) (buf : List Byte) (n : Nat) : List Byte :=
  frameBytes c seq (slice buf (1 + 2 * c.w.bytes) n) ++ buf.drop (c.ovh + n)

/-- The buffer `packet_of` gives FORMAT_FRAME (R256): `PKT` zeros with the payload copied to offset `1 + 2W`. -/
def packetBuffer (c : Config) (payload : List Byte) : List Byte :=
  List.replicate (1 + 2 * c.w.bytes) 0 ++ payload ++ List.replicate (c.pkt - (1 + 2 * c.w.bytes + payload.length)) 0

/-- `packet_of(p)` with sequence number `seq` (R256, R119). -/
def packetBytes (c : Config) (seq : Nat) (payload : List Byte) : List Byte :=
  formatBuffer c seq (packetBuffer c payload) payload.length

/-- The host's reassembly rule (R260): a first fragment is completed by the next frame if that is a continuation with the next sequence number, the right offset, and the bytes that are missing; then the report of the whole message results. -/
def reassemble (c : Config) (first second : Nat × List Byte) : Option (List Byte) :=
  match first.2, second.2 with
  | id :: b1 :: b2 :: b3 :: b4 :: dlc :: d1, k :: off :: d2 =>
    if (id = 0xA0 ∨ id = 0xA1 ∨ id = 0xA2 ∨ id = 0xA3) ∧ k = 0x24 ∧ second.1 = (first.1 + 1) % c.seqMod ∧
        off.toNat = d1.length ∧ dlc.toNat = d1.length + d2.length then
      some ((id &&& 0x7F) :: b1 :: b2 :: b3 :: b4 :: dlc :: (d1 ++ d2))
    else none
  | _, _ => none

end Sys2Proof.Machine
end

