-- ==== Sys2Proof/Machine/Egress.lean ====
section
/-! DEFINITION. FORMAT_FRAME, and the egress half: REPORT, EMIT, TRANSPORT_READY, the keep-alive packet and the nine device-to-host encodings. -/

namespace Sys2Proof.Machine

/-! ### FORMAT_FRAME -/

/-- FORMAT_FRAME's effect on SEQ: the read-and-increment (R160, R79). -/
def State.nextSeq (s : State) : State := { s with seq := (s.seq + 1) % s.cfg.seqMod }

/-- FORMAT_FRAME's effect (R160): the frame is written into the caller's buffer, with one sequence number. -/
def formatInto (buf : List Byte) (n : Nat) (s : State) : State :=
  { s with buf := formatBuffer s.cfg s.seq buf n }.nextSeq

/-- FORMAT_FRAME (R160), called directly: no lock; its length is the result. No call falls between the two a fragmented report makes (R260): there, and nowhere else, it waits. -/
def execFormatFrame (call : FormatCall) (s : State) : Res :=
  if !s.running || s.betweenFragments then waits s
  else if s.cfg.frameFits call.buf.length call.n then
    .next ((formatInto call.buf call.n s).returns (.length (s.cfg.ovh + call.n)))
  else .refused .operandOutOfRange

/-! ### EMIT and TRANSPORT_READY -/

/-- EMIT's effect (R265): the direct write does not look at the queue (R266); a full queue drops the packet. -/
def emitPacket (pkt : List Byte) (available : Bool) (s : State) : State :=
  if available then (s.emitOutput (.transportWrite pkt)).returns (.bool true)
  else
    match pushBounded s.cfg.egqCap s.egq pkt with
    | some q => { s with egq := q }.returns (.bool true)
    | none => (s.raise (.backpressure .egressQueueFull)).returns (.bool false)

/-- EMIT (R265), called by the bridge task with a packet of exactly `PKT` bytes. -/
def execEmit (pkt : List Byte) (available : Bool) (s : State) : Res :=
  whenBridgeIdle s (if pkt.length = s.cfg.pkt then .next (emitPacket pkt available s) else .refused .operandOutOfRange)

/-- The keep-alive packet is written if the build has it (R268, R120). -/
def writeKeepAlive (s : State) : State :=
  if s.cfg.keepAlive then s.emitOutput (.transportWrite (List.replicate s.cfg.pkt 0)) else s

/-- TRANSPORT_READY (R268): the oldest queued packet, else the keep-alive. -/
def execTransportReady (s : State) : Res :=
  if s.running then
    match popOldest s.egq with
    | (some pkt, q) => .next ({ s with egq := q }.emitOutput (.transportWrite pkt))
    | (none, _) => .next (writeKeepAlive s)
  else waits s

/-- KEEPALIVE (R120, R268): the packet a ready transport is given while the queue is empty. -/
def execKeepAlive (s : State) : Res :=
  if s.running && decide (s.egq = []) then .next (writeKeepAlive s) else waits s

/-! ### REPORT -/

/-- One formatting step of REPORT (R256): the payload becomes a packet with the next sequence number, and EMIT is next. -/
def formatNext (payload : List Byte) (left : List (List Byte)) (s : State) : Res :=
  if s.cfg.frameFits s.cfg.pkt payload.length then
    let formatted := formatInto (packetBuffer s.cfg payload) payload.length s
    .next { formatted with bridge := .emit formatted.buf left }
  else .refused .operandOutOfRange

/-- BRIDGE's marker after a packet is emitted (R236, R260): WAIT when no payload is left. -/
def afterEmit (left : List (List Byte)) : BridgePc :=
  match left with
  | [] => .wait
  | p :: ps => .second (p :: ps)

/-- REPORT formats the first of the payloads left (R256); none is left only where BRIDGE never stands. -/
def formatLeft (payloads : List (List Byte)) (s : State) : Res :=
  match payloads with
  | [] => .next { s with bridge := .wait }
  | p :: ps => formatNext p ps s

/-- The next atomic step inside REPORT: format the next payload, or EMIT the packet with the availability the environment presents (R252, R265). -/
def reportStep (s : State) : Res :=
  match s.bridge with
  | .format ps => formatLeft ps s
  | .second ps => formatLeft ps s
  | .emit pkt left => .next { emitPacket pkt s.env.transportAvailable s with bridge := afterEmit left }
  | .wait => waits s
  | .tx1 _ => waits s
  | .tx2 _ _ => waits s
  | .rx _ => waits s

/-- The payloads formatted and EMITted within one step (ATOMIC_OPS = on, R46): each EMIT reads an availability of its own, the first `available`. -/
def reportAtOnce (available : Bool) : List (List Byte) → State → Res
  | [], s => .next { s with bridge := .wait }
  | p :: ps, s =>
    if s.cfg.frameFits s.cfg.pkt p.length then
      let formatted := formatInto (packetBuffer s.cfg p) p.length s
      reportAtOnce s.env.transportAgain ps (emitPacket formatted.buf available formatted)
    else .refused .operandOutOfRange

/-- REPORT begins with these payloads (R252): its first formatting step, EMIT and the second fragment as further steps of BRIDGE; with ATOMIC_OPS = on all of it at once, so that BRIDGE is observed at WAIT only (R46). -/
def beginReport (ps : List (List Byte)) (s : State) : Res :=
  if s.cfg.atomicOps then reportAtOnce s.env.transportAvailable ps s
  else
    match ps with
    | p :: ps => formatNext p ps s
    | [] => waits s

/-- REPORT (R252), called by the bridge task. -/
def execReport (m : CanMessage) (s : State) : Res :=
  whenBridgeIdle s
    (match reportPayloads s.cfg m with
    | .ok ps => beginReport ps s
    | .error r => .refused r)

/-- The bridge task emits one device-generated payload (R252, R260): formatting, then EMIT. DESIGN CHOICE (log 29): any payload that fits a packet, its identifier and byte count whatever they are (R115 does not say what one outside its ranges does). -/
def emitPayload (payload : List Byte) (s : State) : Res := whenBridgeIdle s (beginReport [payload] s)

/-- The bridge task emits a payload of the two-packet design (R260), which FRAG_MODE = REFUSE does not have (R261). DESIGN CHOICE (log 29): any payload that fits a packet, its total, its data and its offset whatever they are (R117 and R118 do not say what others do). -/
def emitFragment (payload : List Byte) (s : State) : Res :=
  match s.cfg.fragMode with
  | .twoPacket => emitPayload payload s
  | .refuse => whenBridgeIdle s (.refused .oversizedReport)

/-! ### The device-to-host rows -/

/-- REPORT_CLASSIC_STD, id 0x20 (R115, R116). -/
def execReportClassicStd (ident : BitVec 32) (data : List Byte) (s : State) : Res := emitPayload (singleReport 0x20 ident data) s

/-- REPORT_CLASSIC_EXT, id 0x21 (R115, R116). -/
def execReportClassicExt (ident : BitVec 32) (data : List Byte) (s : State) : Res := emitPayload (singleReport 0x21 ident data) s

/-- REPORT_FD_STD, id 0x22 (R115, R116). -/
def execReportFdStd (ident : BitVec 32) (data : List Byte) (s : State) : Res := emitPayload (singleReport 0x22 ident data) s

/-- REPORT_FD_EXT, id 0x23 (R115, R116). -/
def execReportFdExt (ident : BitVec 32) (data : List Byte) (s : State) : Res := emitPayload (singleReport 0x23 ident data) s

/-- REPORT_FIRST_CLASSIC_STD, id 0xA0 (R117, R260). -/
def execReportFirstClassicStd (ident : BitVec 32) (nbytes : Byte) (data : List Byte) (s : State) : Res := emitFragment (reportBytes 0xA0 ident nbytes data) s

/-- REPORT_FIRST_CLASSIC_EXT, id 0xA1 (R117, R260). -/
def execReportFirstClassicExt (ident : BitVec 32) (nbytes : Byte) (data : List Byte) (s : State) : Res := emitFragment (reportBytes 0xA1 ident nbytes data) s

/-- REPORT_FIRST_FD_STD, id 0xA2 (R117, R260). -/
def execReportFirstFdStd (ident : BitVec 32) (nbytes : Byte) (data : List Byte) (s : State) : Res := emitFragment (reportBytes 0xA2 ident nbytes data) s

/-- REPORT_FIRST_FD_EXT, id 0xA3 (R117, R260). -/
def execReportFirstFdExt (ident : BitVec 32) (nbytes : Byte) (data : List Byte) (s : State) : Res := emitFragment (reportBytes 0xA3 ident nbytes data) s

/-- REPORT_CONT, id 0x24 (R118, R260). -/
def execReportCont (offset : Byte) (data : List Byte) (s : State) : Res := emitFragment (contBytes offset data) s

end Sys2Proof.Machine
end

