-- ==== Sys2Proof/Machine/Bridge.lean ====
section
/-! DEFINITION. The CAN bridge: CONFIGURE, START, STOP, SEND, the two interrupt handlers, and the bridge task. Each definition is one atomic step (R79) or names the steps it is made of. -/

namespace Sys2Proof.Machine

/-! ### Returning in the command context -/

/-- An operation of the command context returns. Inside SCAN's handler that ends the SCAN: its result is discarded, `RD` advances by the frame's length and LOCK is released (R153). -/
def cmdReturn (r : Ret) (s : State) : State :=
  match s.cmdctx with
  | .scanReturn len plen :: rest =>
    ({ s with cmdctx := rest, lock := s.lock.release }.advanceRd len).returns (.outcome (.accept plen))
  | _ => s.returns r

/-- What a bridge operation returns: its own boolean to a direct caller, `DONE` where a wire command called it (R183, R186). -/
def opResult (cmd : Bool) (ok : Bool) : Ret := if cmd then .status .done else .bool ok

/-- The command context has a further atomic step to take. -/
def State.pushFrame (s : State) (f : CmdFrame) : State := { s with cmdctx := f :: s.cmdctx }

/-! ### CONFIGURE, START, STOP -/

/-- A bitrate name's timing tuple, if the table has it (R10, R201). -/
def romLookup : List (BitrateName × BitrateTuple) → BitrateName → Option BitrateTuple
  | [], _ => none
  | (k, t) :: rest, name => if k = name then some t else romLookup rest name

/-- CONFIGURE's effect and result (R201). -/
def configureStep (arb data : BitrateName) (s : State) : State × Bool :=
  if s.ctrlIdle then
    match romLookup s.cfg.bitrateRom arb, romLookup s.cfg.bitrateRom data with
    | some a, some d =>
      let t : TimingPair := { arbitration := a, dataPhase := d }
      let called := s.emitOutput (.ctrlConfigure t s.env.configureOk)
      if s.env.configureOk then ({ called with timing := some t, bst := .configured }, true)
      else (called.raise (.configFailure .peripheral), false)
    | _, _ => (s.raise (.configFailure .badTimingEntry), false)
  else (s.raise (.configFailure .notIdle), false)

/-- START's effect and result (R205): bus participation, then the notifications, then the interrupt line. -/
def startStep (s : State) : State × Bool :=
  if s.bst = .configured then
    let started := s.emitOutput (.ctrlStart s.env.startOk)
    if s.env.startOk then
      let armed := started.emitOutput (.ctrlArm s.env.armOk)
      if s.env.armOk then ({ (armed.setArmed true).setIrqEn true with bst := .started }, true)
      else (armed.raise (.configFailure .peripheral), false)
    else (started.raise (.configFailure .peripheral), false)
  else (s.raise (.configFailure .badState), false)

/-- STOP step 1 (R208): the interrupt line first. -/
def stopStep1 (cmd : Bool) (s : State) : State := (s.setIrqEn false).pushFrame (.stop2 cmd)

/-- STOP step 2 (R208): the notifications; the answer of the disarm call is not used. -/
def stopStep2 (cmd : Bool) (s : State) : State :=
  ((s.emitOutput (.ctrlDisarm s.env.disarmOk)).setArmed false).pushFrame (.stop3 cmd)

/-- STOP step 3 (R208): halt the controller; STARTED becomes CONFIGURED even where the call fails. -/
def stopStep3 (cmd : Bool) (s : State) : State :=
  let halted := s.emitOutput (.ctrlStop s.env.stopOk)
  let left := if s.bst = .started then { halted with bst := .configured } else halted
  cmdReturn (opResult cmd s.env.stopOk) (if s.env.stopOk then left else left.raise (.configFailure .peripheral))

/-- CONFIGURE (R201), called directly. -/
def execConfigure (arb data : BitrateName) (s : State) : Res :=
  whenCmdIdle s (.next (cmdReturn (.bool (configureStep arb data s).2) (configureStep arb data s).1))

/-- START (R205), called directly. -/
def execStart (s : State) : Res :=
  whenCmdIdle s (.next (cmdReturn (.bool (startStep s).2) (startStep s).1))

/-- STOP (R208), called directly: step 1; steps 2 and 3 follow as further steps of CMDCTX. -/
def execStop (s : State) : Res := whenCmdIdle s (.next (stopStep1 false s))

/-! ### SEND -/

/-- SEND step S2 (R212): signal if nothing is in flight, and return true. -/
def sendStep2 (cmd : Bool) (s : State) : State :=
  cmdReturn (opResult cmd true) (if s.txInflight then s else s.signalTxReady)

/-- SEND step S1 (R212): push, or return false with the queue unchanged (CAN_SEND then raises TxQueueFull, R186). S2 is a further step, or part of this one with ATOMIC_OPS = on. -/
def sendStep1 (m : CanMessage) (cmd : Bool) (s : State) : State :=
  match pushBounded Config.txqCap s.txq m with
  | some q =>
    let pushed := { s with txq := q }
    if s.cfg.atomicOps then sendStep2 cmd pushed else pushed.pushFrame (.send2 cmd)
  | none => cmdReturn (opResult cmd false) (if cmd then s.raise (.backpressure .txQueueFull) else s)

/-- SEND (R212), called directly with a well-formed message; not gated by BST (R216). -/
def execSend (m : CanMessage) (s : State) : Res :=
  whenCmdIdle s (if m.wf then .next (sendStep1 m false s) else .refused .illFormedMessage)

/-! ### Interrupt handlers -/

/-- RX_ISR's handler (R220): one message is taken from the controller, pushed or silently dropped, and RX_AVAIL is signalled in both cases. -/
def rxHandler (m : CanMessage) (s : State) : State :=
  let popped := s.emitOutput (.ctrlRxPop m)
  match pushBounded Config.rxqCap s.rxq m with
  | some q => { popped with rxq := q }.signalRxAvail
  | none => (popped.raise (.backpressure .rxQueueFull)).signalRxAvail

/-- RX_ISR (R220, R302): a message that is not well formed is refused (R262). -/
def execRxIsr (m : CanMessage) (s : State) : Res :=
  takeInterrupt s (if m.wf then .next (rxHandler m s) else .refused .illFormedMessage)

/-- TXE_ISR (R224): signals TX_READY and touches nothing else. -/
def execTxeIsr (s : State) : Res := takeInterrupt s (.next s.signalTxReady)

/-! ### The bridge task -/

/-- TASK_WAIT (R228): takes and clears both bits; TX-ready is served first (R294). -/
def taskWaitStep (s : State) : State :=
  { s.clearNotif with bridge := if s.notif.txReady then .tx1 s.notif else .rx s.notif }

/-- Where the task goes after TASK_TX (R231). -/
def afterTx (pending : Notif) : BridgePc := if pending.rxAvail then .rx pending else .wait

/-- TASK_TX step T2 (R231): submit and mark in flight, or clear the flag. -/
def taskTxStep2 (pending : Notif) (e : Option CanMessage) (s : State) : State :=
  match e with
  | some m => { (s.emitOutput (.ctrlSubmit m)).setInflight true with bridge := afterTx pending }
  | none => { s.setInflight false with bridge := afterTx pending }

/-- TASK_TX step T1 (R231): pop one element; T2 is a further step, or part of this one with ATOMIC_OPS = on. -/
def taskTxStep1 (pending : Notif) (s : State) : State :=
  let popped := { s with txq := (popOldest s.txq).2, bridge := .tx2 pending (popOldest s.txq).1 }
  if s.cfg.atomicOps then taskTxStep2 pending (popOldest s.txq).1 popped else popped

/-- TASK_RX step R1 (R236): pop one element and begin its REPORT (with ATOMIC_OPS = on in the same step); an empty queue is no error. -/
def taskRxStep (s : State) : Res :=
  match popOldest s.rxq with
  | (none, _) => .next { s with bridge := .wait }
  | (some m, q) =>
    match reportPayloads s.cfg m with
    | .ok ps =>
      if s.cfg.atomicOps then beginReport ps { s with rxq := q }
      else .next { s with rxq := q, bridge := .format ps }
    | .error r => .refused r

/-- The bridge task's whole turn (R238) as one step, ATOMIC_OPS = on: TASK_WAIT, TASK_TX, TASK_RX and its REPORT, so that BRIDGE is observed at WAIT only (R46, R240). -/
def bridgeTurn (s : State) : Res :=
  let taken := taskWaitStep s
  let served := if s.notif.txReady then taskTxStep1 s.notif taken else taken
  if s.notif.rxAvail then taskRxStep served else .next served

/-- TASK_WAIT (R228): blocked while no bit is set (U13); with ATOMIC_OPS = on the turn it begins is one step (R46). -/
def execTaskWait (s : State) : Res :=
  if s.running && decide (s.bridge = .wait) && !s.notif.isEmpty then
    if s.cfg.atomicOps then bridgeTurn s else .next (taskWaitStep s)
  else waits s

/-- TASK_TX (R231): step T1 or T2, as BRIDGE's marker says. -/
def execTaskTx (s : State) : Res :=
  if s.running then
    match s.bridge with
    | .tx1 pending => .next (taskTxStep1 pending s)
    | .tx2 pending e => .next (taskTxStep2 pending e s)
    | .wait => waits s
    | .rx _ => waits s
    | .format _ => waits s
    | .emit _ _ => waits s
    | .second _ => waits s
  else waits s

/-- TASK_RX (R236): step R1, then the steps of REPORT, as BRIDGE's marker says. -/
def execTaskRx (s : State) : Res :=
  if s.running then
    match s.bridge with
    | .rx _ => taskRxStep s
    | .format _ => reportStep s
    | .emit _ _ => reportStep s
    | .second _ => reportStep s
    | .wait => waits s
    | .tx1 _ => waits s
    | .tx2 _ _ => waits s
  else waits s

/-- The bridge task's next atomic step, whichever it is (R238). -/
def bridgeResume (s : State) : Res :=
  match s.bridge with
  | .wait => execTaskWait s
  | .tx1 _ => execTaskTx s
  | .tx2 _ _ => execTaskTx s
  | .rx _ => execTaskRx s
  | .format _ => execTaskRx s
  | .emit _ _ => execTaskRx s
  | .second _ => execTaskRx s

end Sys2Proof.Machine
end

