-- ==== Sys2Proof/Machine/Commands.lean ====
section
/-! DEFINITION. Command dispatch: CONNECT, CAN_SEND, unknown ids and DISPATCH. Each command body runs in the command context, inside SCAN's handler or called directly. -/

namespace Sys2Proof.Machine

/-- A command is ignored: the event, no effect, status IGNORED (R180 to R182, R190). -/
def ignoreCommand (cause : InvalidCause) (s : State) : State :=
  cmdReturn (.status .ignored) (s.raise (.invalidParams cause))

/-- CONNECT (R183): 0x01 configures the default bitrate, and only if that succeeded goes on to START; anything else is STOP. -/
def connectBody (param : Byte) (s : State) : State :=
  if param = 0x01 then
    if (configureStep s.cfg.defaultArb s.cfg.defaultData s).2 then
      (configureStep s.cfg.defaultArb s.cfg.defaultData s).1.pushFrame .connectStart
    else cmdReturn (.status .done) (configureStep s.cfg.defaultArb s.cfg.defaultData s).1
  else stopStep1 true s

/-- CONNECT's second step: START, its result not used (R183). -/
def connectStartStep (s : State) : State := cmdReturn (.status .done) (startStep s).1

/-- CAN_SEND (R186), once length and DLC are checked: classify the identifier and SEND. -/
def canSendBody (ident : BitVec 32) (data : List Byte) (s : State) : State :=
  match classify s.cfg ident with
  | none => ignoreCommand .idOutOfRange s
  | some (t, id) => sendStep1 (canSendMessage t id data) true s

/-- UNKNOWN (R190): no effect. -/
def unknownBody (s : State) : State := ignoreCommand .unknownCommand s

/-- The command a decoded payload is (R180). -/
def commandBody (cmd : Command) (s : State) : State :=
  match cmd with
  | .connect p => connectBody p s
  | .canSend ident data => canSendBody ident data s
  | .unknown _ _ => unknownBody s

/-- DISPATCH's body (R180): reads `CMD[0 .. n-1]` and nothing else, and no byte past the payload SCAN copied (R26). -/
def dispatchBody (n : Nat) (s : State) : Res :=
  match s.payload n with
  | none => .refused .unwrittenRead
  | some payload =>
    match decodeCommand s.cfg payload with
    | .error cause => .next (ignoreCommand cause s)
    | .ok cmd => .next (commandBody cmd s)

/-- DISPATCH (R180), called directly. -/
def execDispatch (n : Nat) (s : State) : Res := whenCmdIdle s (dispatchBody n s)

/-- CONNECT (R183), called directly: its first atomic step. -/
def execConnect (param : Byte) (s : State) : Res := whenCmdIdle s (.next (connectBody param s))

/-- CAN_SEND (R186), called directly: its first atomic step. More than 8 data bytes are outside the length range (R186, V-D39). -/
def execCanSend (ident : BitVec 32) (data : List Byte) (s : State) : Res :=
  whenCmdIdle s (.next (if data.length ≤ 8 then canSendBody ident data s else ignoreCommand .lengthMismatch s))

/-- UNKNOWN (R190), called directly; neither the id nor the rest of the payload matters. -/
def execUnknown (_id : Byte) (_rest : List Byte) (s : State) : Res := whenCmdIdle s (.next (unknownBody s))

/-- A host-to-device payload that decodes to no command, called directly (R181 to R183, R186). -/
def execInvalid (cause : InvalidCause) (s : State) : Res := whenCmdIdle s (.next (ignoreCommand cause s))

end Sys2Proof.Machine
end

