-- ==== Sys2Proof/Machine/Parser.lean ====
section
/-! DEFINITION. The frame parser: RECEIVE in both full-ring profiles, SCAN with its seven outcomes, the acceptance of a FRAME, PROCESS, INGRESS, and the command context's further steps. -/

namespace Sys2Proof.Machine

/-! ### RECEIVE -/

/-- RECEIVE's loop, FULL_POLICY = REJECT (R141); `i` counts the bytes accepted. -/
def receiveReject : List Byte → Nat → State → State
  | [], _, s => s.returns (.bool true)
  | b :: bs, i, s =>
    if (s.wr + 1) % s.cfg.cap = s.rd then (s.raise (.backpressure (.ringFull i))).returns (.bool false)
    else receiveReject bs (i + 1) (s.appendRing b)

/-- One byte of RECEIVE, FULL_POLICY = OVERWRITE (R142): when `WR` catches `RD`, the oldest unread byte is given up. -/
def overwriteByte (b : Byte) (s : State) : State :=
  let s1 := s.appendRing b
  if s1.wr = s1.rd then (s1.advanceRd 1).raise (.backpressure .ringOverwrite) else s1

/-- RECEIVE's loop, FULL_POLICY = OVERWRITE (R142); no result. -/
def receiveOverwrite : List Byte → State → State
  | [], s => s.returns .none
  | b :: bs, s => receiveOverwrite bs (overwriteByte b s)

/-- RECEIVE's effect (R141, R142), LOCK acquired and released within the one atomic step. -/
def receiveBody (bs : List Byte) (s : State) : State :=
  match s.cfg.fullPolicy with
  | .reject => receiveReject bs 0 s
  | .overwrite => receiveOverwrite bs s

/-- RECEIVE (R141, R142). Its caller waits for LOCK (R28, R312): CMDCTX calls it when IDLE, never from the handler (R352); another task's call falls between two SCAN steps of a PROCESS (R80, R155) and waits while the handler runs. -/
def execReceive (bs : List Byte) (s : State) : Res :=
  if !s.running then waits s
  else if s.env.caller = .cmdctx ∧ s.inHandler = true then .refused .wrongContext
  else if s.lock.canAcquire s.env.caller = true ∧ (s.env.caller = .cmdctx → s.cmdctx = []) then .next (receiveBody bs s)
  else waits s

/-! ### SCAN -/

/-- SCAN's acceptance of the frame at `RD` (R153): the payload is copied to CMD and the handler is called with LOCK held; `RD` advances when the handler returns. -/
def acceptFrame (payload : List Byte) (s : State) : Res :=
  if s.cfg.cmdMax < payload.length then .fault .cmdBufOverrun
  else
    dispatchBody payload.length
      ({ s with cmd := s.cmd.writeSeq 0 payload, cmdLen := payload.length, lock := s.lock.acquire .cmdctx }.pushFrame
        (.scanReturn (s.cfg.ovh + payload.length) payload.length))

/-- SCAN's outcomes that accept nothing (R147 to R152): a stop changes nothing, a skip raises its event and advances `RD` by one. So a failed checksum is no fatal error, and the scan resumes at the very next byte: a tag inside a payload cannot desynchronise the stream for good (R158). -/
def scanReject (o : ScanOutcome) (s : State) : State :=
  match o with
  | .skipNonTag => ((s.raise (.streamCorruption .nonTag)).advanceRd 1).returns (.outcome o)
  | .skipBadLen => ((s.raise (.streamCorruption .badLength)).advanceRd 1).returns (.outcome o)
  | .skipBadSum => ((s.raise (.streamCorruption .badChecksum)).advanceRd 1).returns (.outcome o)
  | _ => s.returns (.outcome o)

/-- The outcomes on which PROCESS returns (R155). -/
def ScanOutcome.isStop : ScanOutcome → Bool
  | .stopEmpty => true
  | .stopShort => true
  | .stopIncomplete => true
  | _ => false

/-- One SCAN step (R159) of a command context that may take LOCK. -/
def scanStep (s : State) : Res :=
  match s.unread with
  | none => .refused .unwrittenRead
  | some bs =>
    match scanBytes s.cfg bs with
    | .error o => .next (scanReject o s)
    | .ok (_, payload) => acceptFrame payload s

/-- SCAN (R146 to R159), called directly. -/
def execScan (s : State) : Res := whenParserIdle s (scanStep s)

/-- FRAME (R153): the valid frame at the fetch pointer is accepted; all its bytes must be unread (R150). -/
def execFrame (_seq : Nat) (payload : List Byte) (s : State) : Res :=
  whenParserIdle s (if s.used < s.cfg.ovh + payload.length then waits s else acceptFrame payload s)

/-! ### PROCESS and INGRESS -/

/-- PROCESS takes its next SCAN (R155), with its own frame on top of the stack `rest`; on a stop outcome it returns. -/
def processStep (rest : List CmdFrame) (s : State) : Res :=
  match s.unread with
  | none => .refused .unwrittenRead
  | some bs =>
    match scanBytes s.cfg bs with
    | .error o => .next { scanReject o s with cmdctx := if ScanOutcome.isStop o then rest else .process :: rest }
    | .ok (_, payload) => acceptFrame payload { s with cmdctx := .process :: rest }

/-- PROCESS (R155): its first SCAN; the others follow as further steps of CMDCTX. -/
def execProcess (s : State) : Res := whenParserIdle s (processStep [] s)

/-- INGRESS (R168): RECEIVE of what the read hands on, then PROCESS as further steps of CMDCTX. -/
def execIngress (t : List Byte) (s : State) : Res :=
  whenParserIdle s (.next ((receiveBody (ingressBytes s.cfg t) s).pushFrame .process))

/-! ### The command context's further steps -/

/-- CMDCTX takes the next atomic step of the operation it is inside (R46); at IDLE it has none. PROCESS waits where another agent owns LOCK. -/
def cmdResume (s : State) : Res :=
  if s.running then
    match s.cmdctx with
    | [] => waits s
    | .process :: rest => if s.lock.canAcquire .cmdctx then processStep rest s else waits s
    | .scanReturn len plen :: rest =>
      .next (cmdReturn (.outcome (.accept plen)) { s with cmdctx := .scanReturn len plen :: rest })
    | .connectStart :: rest => .next (connectStartStep { s with cmdctx := rest })
    | .send2 cmd :: rest => .next (sendStep2 cmd { s with cmdctx := rest })
    | .stop2 cmd :: rest => .next (stopStep2 cmd { s with cmdctx := rest })
    | .stop3 cmd :: rest => .next (stopStep3 cmd { s with cmdctx := rest })
  else waits s

end Sys2Proof.Machine
end

