-- ==== Sys2Proof/Machine/Init.lean ====
section
/-! DEFINITION. INIT (R334) and its failure (R336). -/

namespace Sys2Proof.Machine

/-- Everything INIT creates or clears (R334), before it looks at `init_ok`. -/
def createAll (s : State) : State :=
  { s with
    ring := []
    wr := 0
    rd := 0
    cmd := []
    cmdLen := 0
    seq := 0
    lock := { owner := none, depth := 0 }
    txq := []
    rxq := []
    timing := none
    irqEn := false
    notifArmed := false
    txInflight := false
    notif := Notif.clear
    bridge := .wait
    cmdctx := []
    egq := []
    buf := []
    inited := true }

/-- INIT (R334): runs once, before anything else; a failed primitive creation halts the block for good (R336). -/
def execInit (initOk : Bool) (s : State) : Res :=
  if s.inited then waits s
  else if initOk then .next { createAll s with bst := .ready }
  else .next { (createAll s).raise .fatalInit with bst := .halted }

end Sys2Proof.Machine
end

