-- ==== Sys2Proof/Machine/Dispatch.lean ====
section
/-! DEFINITION. The instruction dispatch: one arm per constructor of Instr. -/

namespace Sys2Proof.Machine

def exec (i : Instr) (s : State) : Host.Outcome State Fault Refusal :=
  match i with
  | .frame seq payload => Sys2Proof.Machine.execFrame seq payload s
  | .connect param => Sys2Proof.Machine.execConnect param s
  | .canSend ident data => Sys2Proof.Machine.execCanSend ident data s
  | .unknown id rest => Sys2Proof.Machine.execUnknown id rest s
  | .reportClassicStd ident data => Sys2Proof.Machine.execReportClassicStd ident data s
  | .reportClassicExt ident data => Sys2Proof.Machine.execReportClassicExt ident data s
  | .reportFdStd ident data => Sys2Proof.Machine.execReportFdStd ident data s
  | .reportFdExt ident data => Sys2Proof.Machine.execReportFdExt ident data s
  | .reportFirstClassicStd ident nbytes data => Sys2Proof.Machine.execReportFirstClassicStd ident nbytes data s
  | .reportFirstClassicExt ident nbytes data => Sys2Proof.Machine.execReportFirstClassicExt ident nbytes data s
  | .reportFirstFdStd ident nbytes data => Sys2Proof.Machine.execReportFirstFdStd ident nbytes data s
  | .reportFirstFdExt ident nbytes data => Sys2Proof.Machine.execReportFirstFdExt ident nbytes data s
  | .reportCont offset data => Sys2Proof.Machine.execReportCont offset data s
  | .keepAlive => Sys2Proof.Machine.execKeepAlive s
  | .init initOk => Sys2Proof.Machine.execInit initOk s
  | .ingress transfer => Sys2Proof.Machine.execIngress transfer s
  | .receive bytes => Sys2Proof.Machine.execReceive bytes s
  | .process => Sys2Proof.Machine.execProcess s
  | .scan => Sys2Proof.Machine.execScan s
  | .formatFrame call => Sys2Proof.Machine.execFormatFrame call s
  | .dispatch n => Sys2Proof.Machine.execDispatch n s
  | .configure arb data => Sys2Proof.Machine.execConfigure arb data s
  | .start => Sys2Proof.Machine.execStart s
  | .stop => Sys2Proof.Machine.execStop s
  | .send m => Sys2Proof.Machine.execSend m s
  | .rxIsr m => Sys2Proof.Machine.execRxIsr m s
  | .txeIsr => Sys2Proof.Machine.execTxeIsr s
  | .taskWait => Sys2Proof.Machine.execTaskWait s
  | .taskTx => Sys2Proof.Machine.execTaskTx s
  | .taskRx => Sys2Proof.Machine.execTaskRx s
  | .report m => Sys2Proof.Machine.execReport m s
  | .emit pkt available => Sys2Proof.Machine.execEmit pkt available s
  | .transportReady => Sys2Proof.Machine.execTransportReady s

end Sys2Proof.Machine
end

