-- ==== Sys2Proof/Machine/Fetch.lean ====
section
/-! DEFINITION. Where a step's instruction comes from: the next input or scheduler choice, the frame at the fetch pointer, who may call it, and the placing of a table word. -/

namespace Sys2Proof.Machine

/-- The step's inputs (R300): the oldest one placed in the script, else the next of the free stream, which nothing constrains (U18). The environment's answers become the ones this step reads. -/
def nextStimulus (s : State) : Stimulus × State :=
  match s.script with
  | st :: rest => (st, { s with script := rest, env := st.env })
  | [] => (Config.envStream s.tick, { s with tick := s.tick + 1, env := (Config.envStream s.tick).env })

/-- The agents that may call an operation, its own agent first (R310): the *Agent and context* of its rule, as R8 sums them up. Any task calls RECEIVE (R80, R155) and FORMAT_FRAME (R160), and TRANSPORT_READY is the USB class task's where ISR_USB does not handle it (R268). -/
def callers (i : Instr) : List Agent :=
  match i with
  | .init _ => [.init]
  | .frame _ _ => [.cmdctx]
  | .connect _ => [.cmdctx]
  | .canSend _ _ => [.cmdctx]
  | .unknown _ _ => [.cmdctx]
  | .ingress _ => [.cmdctx]
  | .receive _ => [.cmdctx, .bridge]
  | .process => [.cmdctx]
  | .scan => [.cmdctx]
  | .dispatch _ => [.cmdctx]
  | .configure _ _ => [.cmdctx]
  | .start => [.cmdctx]
  | .stop => [.cmdctx]
  | .send _ => [.cmdctx]
  | .rxIsr _ => [.isrRx]
  | .txeIsr => [.isrTxe]
  | .taskWait => [.bridge]
  | .taskTx => [.bridge]
  | .taskRx => [.bridge]
  | .formatFrame _ => [.bridge, .cmdctx]
  | .report _ => [.bridge]
  | .emit _ _ => [.bridge]
  | .reportClassicStd _ _ => [.bridge]
  | .reportClassicExt _ _ => [.bridge]
  | .reportFdStd _ _ => [.bridge]
  | .reportFdExt _ _ => [.bridge]
  | .reportFirstClassicStd _ _ _ => [.bridge]
  | .reportFirstClassicExt _ _ _ => [.bridge]
  | .reportFirstFdStd _ _ _ => [.bridge]
  | .reportFirstFdExt _ _ _ => [.bridge]
  | .reportCont _ _ => [.bridge]
  | .transportReady => [.isrUsb, .cmdctx]
  | .keepAlive => [.isrUsb, .cmdctx]

/-- An agent may call the operation (R310). -/
def mayCall (a : Agent) (i : Instr) : Bool := decide (a ∈ callers i)

/-- A call from a wrong context is no step (R310, U16). -/
def whenCaller (ok : Bool) (k : Res) : Res := if ok then k else .refused .wrongContext

/-- A called operation is executed for its caller (R310). -/
def runCalled (i : Instr) (s : State) : Res := whenCaller (mayCall s.env.caller i) (exec i s)

/-- Bytes that are no instruction: a payload the dispatcher ignores (R182), a place in the ring where no frame begins, which SCAN skips or stops at (R147 to R152), or nothing the block has. -/
def runUndecodable (err : DecodeError) (s : State) : Res :=
  match err with
  | .invalidParams cause => whenCaller (decide (s.env.caller = .cmdctx)) (execInvalid cause s)
  | .notAFrame _ => runCalled .scan s
  | e => if s.running then .refused (.undecodable e) else waits s

/-- The instruction a presented encoding is: a frame is fetched from the ring at `RD`, the block's fetch pointer (R24); everything else lies in the encoding itself. -/
def fetch (s : State) (e : Encoded) : Except DecodeError Instr :=
  match e.wireFormat with
  | .frame =>
    match s.unread with
    | some bs => decodeFrame s.cfg bs
    | none => .error (.notAFrame .stopEmpty)
  | _ => decode s.cfg e

/-- A presented encoding is fetched, decoded and executed for its caller. -/
def runEncoded (e : Encoded) (s : State) : Res :=
  match fetch s e with
  | .ok i => runCalled i s
  | .error err => runUndecodable err s

/-- A task takes the next atomic step of the operation it is inside (R46); no other agent has one. -/
def resume (a : Agent) (s : State) : Res :=
  match a with
  | .cmdctx => cmdResume s
  | .bridge => bridgeResume s
  | _ => waits s

/-- One step's choice is carried out. -/
def runChoice (ch : Choice) (s : State) : Res :=
  match ch with
  | .call e => runEncoded e s
  | .resume a => resume a s

/-- One atomic step (R79, R82); a configuration outside R11 and R13 is refused (U5). -/
def stepOnce (s : State) : Res :=
  if s.cfg.sizesOk then runChoice (nextStimulus s).1.choice (nextStimulus s).2
  else .refused .illFormedConfig

/-- Bytes written to the ring from an index on. -/
def Memory.writeRing (cap : Nat) : Memory → Nat → List Byte → Memory
  | m, _, [] => m
  | m, i, b :: bs => Memory.writeRing cap (Memory.write m (i % cap) b) (i + 1) bs

/-- The agent that presents an encoding of its own; CMDCTX where it is no instruction. -/
def presenter (c : Config) (e : Encoded) : Agent :=
  match decode c e with
  | .ok i => (callers i).headD .cmdctx
  | .error _ => .cmdctx

/-- A table word placed where the next step fetches: a frame's bytes become the unread region of the ring, and the script's head presents the encoding, with the instruction's own agent as the caller. -/
def placeWord (s : State) (nbits w : Nat) : State :=
  let e := wordEncoded s.cfg nbits w
  let placed := { s with script := { choice := .call e, env := { s.env with caller := presenter s.cfg e } } :: s.script }
  match e.wireFormat with
  | .frame =>
    { placed with
      ring := Memory.writeRing s.cfg.cap s.ring s.rd e.bytes
      wr := (s.rd + e.bytes.length) % s.cfg.cap }
  | _ => placed

end Sys2Proof.Machine
end

