-- ==== Sys2Proof/Safety.lean ====
section
/-! DEFINITION. What the claims speak of: execution contexts, the parts of the block's invariant, quiescence, and runs of the command context to its rest. -/

namespace Sys2Proof.Machine

/-! ### Execution contexts (R310) -/

/-- The three execution contexts. -/
inductive Context where
  | initialisation
  | interrupt
  | task
  deriving DecidableEq, Repr, Inhabited

/-- The context an instruction runs in (R310). TRANSPORT_READY's is not settled by the source; it is listed as interrupt context, the narrower of the two. -/
def instrContext : Instr → Context
  | .init _ => .initialisation
  | .rxIsr _ => .interrupt
  | .txeIsr => .interrupt
  | .transportReady => .interrupt
  | .keepAlive => .interrupt
  | _ => .task

/-- The operations the command context begins, but for RECEIVE, INGRESS and FORMAT_FRAME (R8, R310). -/
def commandContext : Instr → Bool
  | .frame _ _ => true
  | .connect _ => true
  | .canSend _ _ => true
  | .unknown _ _ => true
  | .process => true
  | .scan => true
  | .dispatch _ => true
  | .configure _ _ => true
  | .start => true
  | .stop => true
  | .send _ => true
  | _ => false

/-! ### When an operation can be taken -/

/-- The command context can begin an operation: INIT has succeeded and CMDCTX is at IDLE. -/
abbrev State.cmdReady (s : State) : Prop := s.running = true ∧ s.cmdctx = []

/-- A parser operation can begin: CMDCTX is at IDLE and nobody holds LOCK. -/
abbrev State.parserReady (s : State) : Prop := s.cmdReady ∧ s.lock = { owner := none, depth := 0 }

/-- RECEIVE can be taken (R141): its caller is a task that can acquire LOCK, and where that is CMDCTX, it is at IDLE. -/
abbrev State.receiveReady (s : State) : Prop :=
  s.running = true ∧ s.lock.canAcquire s.env.caller = true ∧ (s.env.caller = .cmdctx → s.cmdctx = [])

/-- The bridge task can be called: INIT has succeeded and BRIDGE is at WAIT. -/
abbrev State.bridgeReady (s : State) : Prop := s.running = true ∧ s.bridge = .wait

/-- A CAN interrupt handler can be taken (R291). -/
abbrev State.interruptReady (s : State) : Prop := s.running = true ∧ s.irqEn = true ∧ s.notifArmed = true

/-! ### The parts of the invariant -/

/-- The byte spaces keep their canonical form, inside the ring and the command buffer (R22, R26). -/
def State.memoryOk (s : State) : Prop :=
  Memory.wf s.ring ∧ Memory.wf s.cmd ∧ (∀ x ∈ s.ring, x.1 < s.cfg.cap) ∧ (∀ x ∈ s.cmd, x.1 < s.cfg.cmdMax)

/-- The payload SCAN last copied lies in CMD, every byte of it written (R26, R153). -/
def State.payloadOk (s : State) : Prop := s.cmdLen ≤ s.cfg.cmdMax ∧ ∃ p, s.cmd.readSeq 0 s.cmdLen = some p

/-- The ring indices and the sequence counter are in their ranges (R23, R24, R27). -/
def State.indicesOk (s : State) : Prop := s.rd < s.cfg.cap ∧ s.wr < s.cfg.cap ∧ s.seq < s.cfg.seqMod

/-- Every unread ring cell has been written (R22). -/
def State.unreadOk (s : State) : Prop := ∃ bs, s.unread = some bs

/-- The queues are within their capacities and hold well-formed elements (R34, R35, R47). -/
def State.queuesOk (s : State) : Prop :=
  s.txq.length ≤ Config.txqCap ∧ s.rxq.length ≤ Config.rxqCap ∧ s.egq.length ≤ s.cfg.egqCap ∧
    (∀ m ∈ s.txq, m.wf) ∧ (∀ m ∈ s.rxq, m.wf) ∧ (∀ p ∈ s.egq, p.length = s.cfg.pkt)

/-- `TIMING` is none exactly when no timing was applied (R38). -/
def State.timingOk (s : State) : Prop := s.timing = none ↔ (s.bst = .ready ∨ s.bst = .halted)

/-- A frame of the command context that stands in the middle of STOP. -/
def CmdFrame.inStop : CmdFrame → Bool
  | .stop2 _ => true
  | .stop3 _ => true
  | _ => false

/-- The interrupt enables (R40): outside the middle of STOP they say whether the bridge is STARTED; after STOP's step 1 the line is off, after step 2 the notifications too (R208). -/
def State.enablesOk (s : State) : Prop :=
  match s.cmdctx with
  | .stop2 _ :: _ => s.irqEn = false ∧ s.notifArmed = decide (s.bst = .started)
  | .stop3 _ :: _ => s.irqEn = false ∧ s.notifArmed = false
  | _ => s.irqEn = decide (s.bst = .started) ∧ s.notifArmed = decide (s.bst = .started)

/-- A handler frame is one a wire command or a direct call leaves (R46); `cmd` holds inside SCAN. -/
def CmdFrame.isHandler : CmdFrame → Bool
  | .connectStart => true
  | .send2 _ => true
  | .stop2 _ => true
  | .stop3 _ => true
  | _ => false

/-- The frame returns to a wire command. -/
def CmdFrame.ofCommand : CmdFrame → Bool
  | .connectStart => true
  | .send2 cmd => cmd
  | .stop2 cmd => cmd
  | .stop3 cmd => cmd
  | _ => false

/-- The rest of the stack below a handler frame or at a SCAN's return: a SCAN called directly or by PROCESS. -/
def scanTail (s : State) : List CmdFrame → Prop
  | [.scanReturn len plen] => len = s.cfg.ovh + plen ∧ len ≤ s.used
  | [.scanReturn len plen, .process] => len = s.cfg.ovh + plen ∧ len ≤ s.used
  | _ => False

/-- The command context's stack has one of the shapes the operations give it (R46), and the lock is held exactly inside SCAN's handler (R28, R153). -/
def State.stackOk (s : State) : Prop :=
  match s.cmdctx with
  | [] => s.lock = { owner := none, depth := 0 }
  | [f] =>
    ((f = .process ∨ f.isHandler = true) ∧ s.lock = { owner := none, depth := 0 }) ∨
      (scanTail s [f] ∧ s.lock = { owner := some .cmdctx, depth := 1 })
  | f :: rest =>
    (scanTail s (f :: rest) ∨ (f.isHandler = true ∧ f.ofCommand = true ∧ scanTail s rest)) ∧
      s.lock = { owner := some .cmdctx, depth := 1 }

/-- The bridge task's marker is one its operations leave (R46): the set taken holds the bit being served, a popped message is well formed, a payload fits a packet. -/
def State.bridgeOk (s : State) : Prop :=
  match s.bridge with
  | .wait => True
  | .tx1 pending => pending.txReady = true
  | .tx2 pending e => pending.txReady = true ∧ ∀ m, e = some m → m.wf
  | .rx pending => pending.rxAvail = true
  | .format ps => ps ≠ [] ∧ ∀ p ∈ ps, s.cfg.frameFits s.cfg.pkt p.length
  | .second ps => ps ≠ [] ∧ ∀ p ∈ ps, s.cfg.frameFits s.cfg.pkt p.length
  | .emit pkt ps => pkt.length = s.cfg.pkt ∧ ∀ p ∈ ps, s.cfg.frameFits s.cfg.pkt p.length

/-- With ATOMIC_OPS = on no agent is observed between the micro-steps (R46), and a queued message always has a transmission in flight or a signal to come (R240, R345). -/
def State.atomicOk (s : State) : Prop :=
  s.cfg.atomicOps = true →
    s.bridge = .wait ∧ (∀ cmd, .send2 cmd ∉ s.cmdctx) ∧ (s.txq ≠ [] → s.txInflight = true ∨ s.notif.txReady = true)

/-- The invariant of the block: every step keeps it (in a configuration whose sizes are in range). -/
structure State.Inv (s : State) : Prop where
  sizes : s.cfg.sizesOk
  memory : s.memoryOk
  payload : s.payloadOk
  indices : s.indicesOk
  unread : s.unreadOk
  queues : s.queuesOk
  timing : s.timingOk
  enables : s.enablesOk
  stack : s.stackOk
  bridge : s.bridgeOk
  atomic : s.atomicOk

/-! ### Rest -/

/-- No agent of the block has an enabled step without a new input (R340): the scanner, were it called, would stop. -/
def State.quiescent (s : State) : Prop :=
  s.cmdctx = [] ∧ s.bridge = .wait ∧ s.notif = Notif.clear ∧
    ∃ bs o, s.unread = some bs ∧ scanBytes s.cfg bs = .error o ∧ ScanOutcome.isStop o = true

/-- The command context runs alone for at most `n` further atomic steps, or until it is at IDLE. -/
def runCmd : Nat → State → Res
  | 0, s => .next s
  | n + 1, s =>
    if s.cmdIdle then .next s
    else
      match cmdResume s with
      | .next s' => runCmd n s'
      | .fault f => .fault f
      | .refused r => .refused r

/-- The bridge task runs alone for at most `n` further atomic steps, or until it is at WAIT. -/
def runBridge : Nat → State → Res
  | 0, s => .next s
  | n + 1, s =>
    if s.bridge = .wait then .next s
    else
      match bridgeResume s with
      | .next s' => runBridge n s'
      | .fault f => .fault f
      | .refused r => .refused r

end Sys2Proof.Machine
end

