-- ==== Sys2Proof/Certificates/Slice0/Obligations.lean ====
section
/-! DEFINITION. The statements for the provers. Each is about every configuration and every state its hypotheses allow. -/

open Sys2Proof Sys2Proof.Machine

/-! ### Encodings -/

/-- Words written out from the spec's encodings decode to the instructions they stand for (R101, R112 to R118, R120, R128; bytes of V-D18, V-D33, V-S7, V-D47, V-D13, V-D71). -/
def Obligations.SampleWordsDecode : Prop :=
  decode Config.build (onWire .frame [0xFF, 0x08, 0x00, 0x00, 0x00, 0x01, 0x01, 0xF7]) = .ok (.frame 0 [0x01, 0x01]) ∧
  decode Config.build (onWire .cmdH2D [0x01, 0x01]) = .ok (.connect 0x01) ∧
  decode Config.build (onWire .cmdH2D [0x10, 0x21, 0x03, 0x02, 0x00, 0x01]) = .ok (.canSend 0x321 [0x00, 0x01]) ∧
  decode Config.build (onWire .cmdH2D [0x20, 0x23]) = .ok (.unknown 0x20 [0x23]) ∧
  decode Config.build (onWire .cmdD2H [0x20, 0x23, 0x01, 0x00, 0x00, 0x02, 0xAA, 0xBB]) = .ok (.reportClassicStd 0x123 [0xAA, 0xBB]) ∧
  decode Config.build (onWire .cmdD2H [0x23, 0xFF, 0xFF, 0xFF, 0x1F, 0x00]) = .ok (.reportFdExt 0x1FFFFFFF []) ∧
  decode Config.build (onWire .cmdD2H [0x24, 0x34, 0x34, 0x35]) = .ok (.reportCont 0x34 [0x34, 0x35]) ∧
  decode Config.build (onWire .packet (List.replicate 64 0x00)) = .ok .keepAlive ∧
  decode Config.build (portOp 0x13 OpArgs.none) = .ok (.send default) ∧
  decode Config.build (portOp 0x42 OpArgs.none) = .ok .transportReady

/-- Decoding the encoding of a well-formed instruction gives the instruction back, for every instruction of every build. The first-fragment rows 0xA0 and 0xA1 have no well-formed form where R13 holds (a classic report always fits one packet); their layout comes back too. -/
def Obligations.DecodeOfEncode : Prop :=
  (∀ (c : Config) (i : Instr), c.sizesOk → i.wf c = true → decode c (encode c i) = .ok i) ∧
  (∀ (c : Config) (ident : BitVec 32) (n : Byte) (data : List Byte), data.length = c.cap1 →
    decode c (encode c (.reportFirstClassicStd ident n data)) = .ok (.reportFirstClassicStd ident n data) ∧
    decode c (encode c (.reportFirstClassicExt ident n data)) = .ok (.reportFirstClassicExt ident n data))

/-- R108: a byte string is a valid frame, one the scanner accepts whole, iff its length, tag, length field and sum are as the rule says. The bytes the scanner accepts are exactly the frame of the payload and sequence number it reads: no two frames share an encoding (R101, R107). -/
def Obligations.AcceptedBytesAreTheFrame : Prop :=
  (∀ (c : Config) (f : List Byte),
    (∃ seq p, scanBytes c f = .ok (seq, p) ∧ f.length = c.ovh + p.length) ↔
      (c.ovh ≤ f.length ∧ f.head? = some Config.tag ∧ c.ovh ≤ unLE (slice f 1 c.w.bytes) ∧
        unLE (slice f 1 c.w.bytes) ≤ c.cap - 1 ∧ f.length = unLE (slice f 1 c.w.bytes) ∧ sum8 f = 0)) ∧
  (∀ (c : Config) (bs : List Byte) (seq : Nat) (p : List Byte), scanBytes c bs = .ok (seq, p) →
    bs.take (c.ovh + p.length) = frameBytes c seq p ∧ seq < c.seqMod ∧ c.ovh + p.length ≤ c.cap - 1)

/-- R107: the checksum byte makes the sum of all frame bytes 0 modulo 256, and the validator accepts only bytes whose sum, the checksum byte included, is 0. -/
def Obligations.FrameBytesSumToZero : Prop :=
  (∀ (c : Config) (seq : Nat) (p : List Byte),
    sum8 (frameBytes c seq p) = 0 ∧
      (frameBytes c seq p).getLast? = some (BitVec.ofNat 8 ((256 - (sum8 (frameBytes c seq p).dropLast).toNat) % 256))) ∧
  (∀ (c : Config) (bs : List Byte) (seq : Nat) (p : List Byte), scanBytes c bs = .ok (seq, p) →
    sum8 (bs.take (c.ovh + p.length)) = 0)

/-- R125: the DLC-to-byte-count table; codes above 8 occur only with the FD format. -/
def Obligations.DlcTable : Prop :=
  (List.range 16).map (fun k => dlc2len (BitVec.ofNat 4 k)) = [0, 1, 2, 3, 4, 5, 6, 7, 8, 12, 16, 20, 24, 32, 48, 64] ∧
  ∀ m : CanMessage, m.wf → 8 < m.dlcCode.toNat → m.msgFormat = .fd

/-! ### The step -/

/-- When the presented encoding decodes to an instruction, the step is exec of it on the state with that input taken: the script's head is gone and the environment's answers are the presented ones. An operation called from a wrong context is no step (R310): each is its own agent's, INIT the initialisation's, RX_ISR and TXE_ISR their interrupts', the bridge task's its own, and the rest CMDCTX's; any task may call RECEIVE and FORMAT_FRAME (R80, R160), and the transport's ready event is ISR_USB's or CMDCTX's (R268). -/
def Obligations.StepRunsDecodedInstruction : Prop :=
  ∀ (s : State) (e : Encoded) (env : Env) (rest : List Stimulus) (i : Instr),
    s.cfg.sizesOk → s.script = { choice := .call e, env := env } :: rest → e.wireFormat ≠ .frame → decode s.cfg e = .ok i →
      (mayCall env.caller i = true → step s = exec i { s with script := rest, env := env }) ∧
      (mayCall env.caller i = false → step s = .refused .wrongContext) ∧
      (mayCall env.caller i = true ↔
        match i with
        | .init _ => env.caller = .init
        | .rxIsr _ => env.caller = .isrRx
        | .txeIsr => env.caller = .isrTxe
        | .transportReady | .keepAlive => env.caller = .isrUsb ∨ env.caller = .cmdctx
        | .receive _ | .formatFrame _ => env.caller = .cmdctx ∨ env.caller = .bridge
        | .taskWait | .taskTx | .taskRx | .report _ | .emit _ _ | .reportCont _ _
        | .reportClassicStd _ _ | .reportClassicExt _ _ | .reportFdStd _ _ | .reportFdExt _ _
        | .reportFirstClassicStd _ _ _ | .reportFirstClassicExt _ _ _ | .reportFirstFdStd _ _ _ | .reportFirstFdExt _ _ _ =>
          env.caller = .bridge
        | .frame _ _ | .connect _ | .canSend _ _ | .unknown _ _ | .ingress _ | .process | .scan | .dispatch _
        | .configure _ _ | .start | .stop | .send _ => env.caller = .cmdctx)

/-- A frame is fetched from the ring: when the unread bytes at RD decode to a frame, the step is exec of that frame, for its agent CMDCTX; called by another agent it is no step (R140, R310). -/
def Obligations.StepRunsFrameAtReadIndex : Prop :=
  ∀ (s : State) (e : Encoded) (env : Env) (rest : List Stimulus) (bs : List Byte) (i : Instr),
    s.cfg.sizesOk → s.script = { choice := .call e, env := env } :: rest → e.wireFormat = .frame → s.unread = some bs →
      decodeFrame s.cfg bs = .ok i →
        (env.caller = .cmdctx → step s = exec i { s with script := rest, env := env }) ∧
        (env.caller ≠ .cmdctx → step s = .refused .wrongContext)

/-- What the step takes otherwise (the model's choice, log 2): with nothing placed, the free stream's next input; and where a task is chosen, its next atomic step: CMDCTX's, or TASK_WAIT, TASK_TX or TASK_RX as BRIDGE's marker says (R46, R79, R238). -/
def Obligations.StepTakesInputsAndResumesTasks : Prop :=
  (∀ s : State, s.script = [] → step s = step { s with script := [Config.envStream s.tick], tick := s.tick + 1 }) ∧
  (∀ (s : State) (a : Agent) (env : Env) (rest : List Stimulus), s.cfg.sizesOk → s.script = { choice := .resume a, env := env } :: rest →
    let s' : State := { s with script := rest, env := env }
    (a = .cmdctx → step s = cmdResume s') ∧
    (a = .bridge → step s = exec (match s.bridge with | .wait => .taskWait | .tx1 _ => .taskTx | .tx2 _ _ => .taskTx | _ => .taskRx) s') ∧
    (a ≠ .cmdctx → a ≠ .bridge → step s = .next s'))

/-! ### Reset and INIT -/

/-- R50: the values the spec gives the state after a successful INIT, in every build. -/
def Obligations.ResetValues : Prop :=
  ∀ c : Config, let s := State.resetWith c
    s.rd = 0 ∧ s.wr = 0 ∧ s.seq = 0 ∧ s.lock = { owner := none, depth := 0 } ∧ s.txq = [] ∧ s.rxq = [] ∧ s.egq = [] ∧
      s.bst = .ready ∧ s.timing = none ∧ s.irqEn = false ∧ s.notifArmed = false ∧ s.txInflight = false ∧
      s.notif = { txReady := false, rxAvail := false } ∧ s.bridge = .wait ∧ s.cmdctx = []

/-- INIT completes on a block that has not been initialised: every register has its reset value, and BST is READY, or HALTED with FatalInit raised where a primitive could not be created (R334, R336). -/
def Obligations.InitCreatesResetState : Prop :=
  ∀ (s : State) (ok : Bool), s.inited = false →
    ∃ t, exec (.init ok) s = .next t ∧ t.inited = true ∧ t.rd = 0 ∧ t.wr = 0 ∧ t.seq = 0 ∧
      t.lock = { owner := none, depth := 0 } ∧ t.txq = [] ∧ t.rxq = [] ∧ t.egq = [] ∧ t.timing = none ∧ t.irqEn = false ∧
      t.notifArmed = false ∧ t.txInflight = false ∧ t.notif = { txReady := false, rxAvail := false } ∧ t.bridge = .wait ∧
      t.cmdctx = [] ∧ t.cfg = s.cfg ∧ t.bst = (if ok then .ready else .halted) ∧
      t.raised = (if ok then s.raised else s.raised ++ [.fatalInit]) ∧ t.outputs = s.outputs

/-- Before INIT nothing but INIT is enabled (R21), and after a failed INIT nothing at all is, for good (R336): every such operation leaves the state as it is. -/
def Obligations.NothingEnabledOutsideRunning : Prop :=
  (∀ (s : State) (i : Instr), s.inited = false → (∀ ok, i ≠ .init ok) → exec i s = .next s) ∧
  (∀ (s : State) (i : Instr), s.inited = true → s.bst = .halted → exec i s = .next s) ∧
  (∀ s t : State, s.inited = true → s.bst = .halted → step s = .next t → t.bst = .halted ∧ t.raised = s.raised ∧ t.outputs = s.outputs)

/-! ### RECEIVE and INGRESS -/

/-- RECEIVE, REJECT profile: exactly the bytes that fit are appended to the unread region, and the result says whether all did (R141). -/
def Obligations.ReceiveRejectAppendsWhatFits : Prop :=
  ∀ (s : State) (u b : List Byte), s.receiveReady → s.cfg.fullPolicy = .reject → s.indicesOk → s.unread = some u →
    ∃ t, exec (.receive b) s = .next t ∧ t.unread = some (u ++ b.take s.free) ∧ t.rd = s.rd ∧
      t.wr = (s.wr + min b.length s.free) % s.cfg.cap ∧ t.ret = .bool (decide (b.length ≤ s.free)) ∧
      t.raised = if b.length ≤ s.free then s.raised else s.raised ++ [.backpressure (.ringFull s.free)]

/-- RECEIVE, OVERWRITE profile: the unread region becomes the last CAP-1 bytes of the old one followed by the new bytes, one event per byte given up, and no result (R142). -/
def Obligations.ReceiveOverwriteKeepsTheLatest : Prop :=
  ∀ (s : State) (u b : List Byte), s.receiveReady → s.cfg.fullPolicy = .overwrite → 2 ≤ s.cfg.cap → s.indicesOk → s.unread = some u →
    ∃ t, exec (.receive b) s = .next t ∧
      t.unread = some ((u ++ b).drop (u.length + b.length - (s.cfg.cap - 1))) ∧
      t.wr = (s.wr + b.length) % s.cfg.cap ∧ t.ret = .none ∧
      t.raised = s.raised ++ List.replicate (u.length + b.length - (s.cfg.cap - 1)) (.backpressure .ringOverwrite)

/-- RECEIVE's frame, both profiles: nothing but RING, WR, the result and the events changes, and RD only in the OVERWRITE profile; a ring cell outside the bytes' places keeps its value (R141, R142). Where it is not taken: another task's RECEIVE waits while CMDCTX holds LOCK, and can be taken after at most two further steps of CMDCTX (R28, R80, R312); the handler's own call is refused (R352). -/
def Obligations.ReceiveFrame : Prop :=
  (∀ (s t : State) (b : List Byte), exec (.receive b) s = .next t → s.wr < s.cfg.cap →
    t = { s with ring := t.ring, wr := t.wr, rd := t.rd, ret := t.ret, raised := t.raised } ∧
      (s.cfg.fullPolicy = .reject → t.rd = s.rd) ∧
      ∀ a, (∀ k, k < b.length → a ≠ (s.wr + k) % s.cfg.cap) → t.ring.read a = s.ring.read a) ∧
  (∀ (s : State) (b : List Byte), s.running = true →
    (s.env.caller = .bridge → s.lock.owner = some .cmdctx → exec (.receive b) s = .next s) ∧
    (s.env.caller = .bridge → s.lock.owner = some .cmdctx → s.Inv →
      ∃ n u, n ≤ 2 ∧ runCmd n s = .next u ∧ u.env = s.env ∧ u.receiveReady) ∧
    (s.env.caller = .cmdctx → s.inHandler = true → exec (.receive b) s = .refused .wrongContext))

/-- INGRESS is RECEIVE of the bytes the read hands on, then PROCESS: the length prefix is clipped to the bytes present and the rest ignored (R168, R121). -/
def Obligations.IngressReceivesThenProcesses : Prop :=
  ∀ (s : State) (k : Byte) (t : List Byte), s.parserReady → (s.env.caller = .cmdctx ∨ s.env.caller = .bridge) →
    ∃ v w, exec (.receive (if s.cfg.lenPrefix then t.take k.toNat else k :: t)) s = .next v ∧
      exec (.ingress (k :: t)) s = .next { v with cmdctx := [.process] } ∧
      exec (.receive []) s = .next w ∧ exec (.ingress []) s = .next { w with cmdctx := [.process] } ∧
      cmdResume { v with cmdctx := [.process] } = exec .process { v with cmdctx := [] }

/-! ### SCAN, FRAME, PROCESS -/

/-- SCAN's three stop outcomes change nothing: no unread byte; a tag with fewer than OVH bytes; a tag and a legal length with fewer than that many bytes (R152, R148, R150). -/
def Obligations.ScanStopsWriteNothing : Prop :=
  ∀ (s : State) (bs : List Byte), s.parserReady → s.unread = some bs →
    (s.used = 0 → exec .scan s = .next { s with ret := .outcome .stopEmpty }) ∧
    (bs.head? = some Config.tag → s.used < s.cfg.ovh → exec .scan s = .next { s with ret := .outcome .stopShort }) ∧
    (bs.head? = some Config.tag → s.cfg.ovh ≤ s.used → s.cfg.ovh ≤ unLE (slice bs 1 s.cfg.w.bytes) →
      unLE (slice bs 1 s.cfg.w.bytes) ≤ s.cfg.cap - 1 → s.used < unLE (slice bs 1 s.cfg.w.bytes) →
      exec .scan s = .next { s with ret := .outcome .stopIncomplete })

/-- SCAN's three skip outcomes raise their event and advance RD by exactly one: a byte that is no tag; a length outside OVH to CAP-1; a non-zero sum over all the frame's bytes (R147, R149, R151). -/
def Obligations.ScanSkipsOneByte : Prop :=
  ∀ (s : State) (b : Byte) (bs : List Byte), s.parserReady → s.unread = some (b :: bs) →
    (b ≠ Config.tag → exec .scan s = .next { s with
      rd := (s.rd + 1) % s.cfg.cap, raised := s.raised ++ [.streamCorruption .nonTag], ret := .outcome .skipNonTag }) ∧
    (b = Config.tag → s.cfg.ovh ≤ s.used →
      (unLE (slice (b :: bs) 1 s.cfg.w.bytes) < s.cfg.ovh ∨ s.cfg.cap - 1 < unLE (slice (b :: bs) 1 s.cfg.w.bytes)) →
      exec .scan s = .next { s with
        rd := (s.rd + 1) % s.cfg.cap, raised := s.raised ++ [.streamCorruption .badLength], ret := .outcome .skipBadLen }) ∧
    (b = Config.tag → s.cfg.ovh ≤ s.used → s.cfg.ovh ≤ unLE (slice (b :: bs) 1 s.cfg.w.bytes) →
      unLE (slice (b :: bs) 1 s.cfg.w.bytes) ≤ s.cfg.cap - 1 → unLE (slice (b :: bs) 1 s.cfg.w.bytes) ≤ s.used →
      sum8 ((b :: bs).take (unLE (slice (b :: bs) 1 s.cfg.w.bytes))) ≠ 0 →
      exec .scan s = .next { s with
        rd := (s.rd + 1) % s.cfg.cap, raised := s.raised ++ [.streamCorruption .badChecksum], ret := .outcome .skipBadSum })

/-- A valid frame at RD is accepted: SCAN and FRAME are the same step, the payload lies in CMD when the handler is called, and after the handler's steps RD has advanced by exactly the frame's length and LOCK is free (R153, R159). Nothing of the ring changes. -/
def Obligations.ScanAcceptsValidFrame : Prop :=
  ∀ (s : State) (bs : List Byte) (seq : Nat) (p : List Byte), s.parserReady → s.unread = some bs →
    scanBytes s.cfg bs = .ok (seq, p) → p.length ≤ s.cfg.cmdMax →
      ∃ t u, exec .scan s = .next t ∧ exec (.frame seq p) s = .next t ∧ t.cmd.readSeq 0 p.length = some p ∧
        runCmd 2 t = .next u ∧ u.cmdctx = [] ∧ u.rd = (s.rd + (s.cfg.ovh + p.length)) % s.cfg.cap ∧
        u.lock = { owner := none, depth := 0 } ∧ u.ret = .outcome (.accept p.length) ∧ u.cmd = t.cmd ∧ u.ring = s.ring ∧ u.wr = s.wr

/-- The handler of an accepted frame has exactly the effect of the command its payload is: a SCAN run to its end differs from the command called directly only in CMD, RD and the result (R153, R180). A payload that is no command is ignored: SCAN changes only CMD, RD, the event and the result (R180 to R186). -/
def Obligations.ScanHasTheCommandsEffect : Prop :=
  ∀ (s : State) (bs : List Byte) (seq : Nat) (p : List Byte), s.parserReady → s.unread = some bs →
    scanBytes s.cfg bs = .ok (seq, p) → p.length ≤ s.cfg.cmdMax →
      (∀ cmd, decodeCommand s.cfg p = .ok cmd →
        ∃ t u v w, exec .scan s = .next t ∧ runCmd 2 t = .next u ∧ exec cmd.toInstr s = .next v ∧ runCmd 2 v = .next w ∧
          w.cmdctx = [] ∧ w.ret = .status (match cmd with | .unknown _ _ => .ignored | .canSend ident _ => (if (classify s.cfg ident).isSome then .done else .ignored) | .connect _ => .done) ∧
          u = { w with
            cmd := s.cmd.writeSeq 0 p, cmdLen := p.length
            rd := (s.rd + (s.cfg.ovh + p.length)) % s.cfg.cap, ret := .outcome (.accept p.length) }) ∧
      (∀ cause, decodeCommand s.cfg p = .error cause →
        exec .scan s = .next { s with
          cmd := s.cmd.writeSeq 0 p, cmdLen := p.length
          rd := (s.rd + (s.cfg.ovh + p.length)) % s.cfg.cap
          raised := s.raised ++ [.invalidParams cause], ret := .outcome (.accept p.length) })

/-- R154: a valid frame whose payload is longer than the command buffer is the one fault, by SCAN, PROCESS or FRAME; in a well-formed configuration no frame the scanner accepts has such a payload. -/
def Obligations.OverlongPayloadFaults : Prop :=
  (∀ (s : State) (bs : List Byte) (seq : Nat) (p : List Byte), s.parserReady → s.unread = some bs →
    scanBytes s.cfg bs = .ok (seq, p) → s.cfg.cmdMax < p.length →
      exec .scan s = .fault .cmdBufOverrun ∧ exec .process s = .fault .cmdBufOverrun ∧ exec (.frame seq p) s = .fault .cmdBufOverrun) ∧
  (∀ (c : Config) (bs : List Byte) (seq : Nat) (p : List Byte), c.payloadFits → scanBytes c bs = .ok (seq, p) → p.length ≤ c.cmdMax)

/-- PROCESS is a loop of SCAN steps (R155). Its first step has SCAN's effect: on a stop outcome it returns, on a skip it goes on, and on an acceptance the handler runs with PROCESS below it. Wherever PROCESS is on top, the next step is a PROCESS again. -/
def Obligations.ProcessLoopsOverScan : Prop :=
  (∀ (s : State) (bs : List Byte) (o : ScanOutcome), s.parserReady → s.unread = some bs → scanBytes s.cfg bs = .error o →
    ∃ t, exec .scan s = .next t ∧ t.ret = .outcome o ∧
      exec .process s = .next { t with cmdctx := if ScanOutcome.isStop o then [] else [.process] }) ∧
  (∀ (s : State) (bs : List Byte) (seq : Nat) (p : List Byte), s.parserReady → s.unread = some bs →
    scanBytes s.cfg bs = .ok (seq, p) → p.length ≤ s.cfg.cmdMax →
    ∃ t, exec .scan s = .next t ∧ exec .process s = .next { t with cmdctx := t.cmdctx ++ [.process] }) ∧
  (∀ v : State, v.running = true → v.lock = { owner := none, depth := 0 } → v.cmdctx = [.process] →
    cmdResume v = exec .process { v with cmdctx := [] })

/-- PROCESS terminates (R156): run alone from an invariant state of a well-formed configuration, it is back at IDLE within 3 * (used + 1) further steps, where the scanner stops. -/
def Obligations.ProcessTerminates : Prop :=
  ∀ s : State, s.Inv → s.cfg.payloadFits → s.parserReady →
    ∃ t u bs o, exec .process s = .next t ∧ runCmd (3 * (s.used + 1)) t = .next u ∧ u.cmdctx = [] ∧
      u.unread = some bs ∧ scanBytes u.cfg bs = .error o ∧ ScanOutcome.isStop o = true

/-- A formatted frame received whole into an empty ring is the next frame SCAN accepts, with the same payload (R162), in both full-ring profiles. -/
def Obligations.FrameRoundTripsThroughTheRing : Prop :=
  ∀ (s : State) (seq : Nat) (p : List Byte), s.parserReady → (s.env.caller = .cmdctx ∨ s.env.caller = .bridge) →
    s.indicesOk → s.used = 0 → s.cfg.sizesOk → seq < s.cfg.seqMod → s.cfg.ovh + p.length ≤ s.cfg.cap - 1 → p.length ≤ s.cfg.cmdMax →
      ∃ t u v, exec (.receive (frameBytes s.cfg seq p)) s = .next t ∧ exec .scan t = .next u ∧ u.cmd.readSeq 0 p.length = some p ∧
        runCmd 2 u = .next v ∧ v.ret = .outcome (.accept p.length) ∧ v.used = 0 ∧
        exec .scan v = .next { v with ret := .outcome .stopEmpty }

/-- Only the parser's operations and INIT move the fetch pointer (R166). -/
def Obligations.OnlyParserOperationsMoveReadIndex : Prop :=
  ∀ (s t : State) (i : Instr), exec i s = .next t →
    t.rd = s.rd ∨ i = .scan ∨ i = .process ∨ (∃ seq p, i = .frame seq p) ∨ (∃ b, i = .receive b) ∨ (∃ b, i = .ingress b) ∨ ∃ ok, i = .init ok

/-! ### FORMAT_FRAME -/

/-- FORMAT_FRAME writes the frame around the payload that lies in the caller's buffer, with the sequence number before the increment, keeps the buffer's bytes past the frame and returns the frame's length; nothing else changes (R160). It is taken wherever BRIDGE stands, but for between the two fragments of one report, where it waits: nothing takes a sequence number between them (R260). -/
def Obligations.FormatFrameWritesFrame : Prop :=
  ∀ (s : State) (buf : List Byte) (n : Nat), s.running = true →
    let between : Prop := (∃ pkt p ps, s.bridge = .emit pkt (p :: ps)) ∨ ∃ ps, s.bridge = .second ps
    (¬ between → s.cfg.ovh + n ≤ buf.length → s.cfg.ovh + n ≤ 2 ^ (8 * s.cfg.w.bytes) - 1 →
      ∃ f : List Byte, f = Config.tag :: (leBytes s.cfg.w.bytes (s.cfg.ovh + n) ++ leBytes s.cfg.w.bytes s.seq ++ slice buf (1 + 2 * s.cfg.w.bytes) n) ∧
        f.length + 1 = s.cfg.ovh + n ∧
        exec (.formatFrame { buf := buf, n := n }) s = .next { s with
          buf := f ++ [BitVec.ofNat 8 ((256 - (sum8 f).toNat) % 256)] ++ buf.drop (s.cfg.ovh + n)
          seq := (s.seq + 1) % 2 ^ (8 * s.cfg.w.bytes)
          ret := .length (s.cfg.ovh + n) }) ∧
    (between → exec (.formatFrame { buf := buf, n := n }) s = .next s)

/-! ### Commands -/

/-- DISPATCH ignores what is no command: an empty payload, CONNECT of the wrong length, CAN_SEND out of its length range, with a DLC above 8 or with a data count that differs from it, and every unknown id; only the event and the status change (R180, R181, R183, R186, R190). -/
def Obligations.DispatchIgnoresInvalidPayloads : Prop :=
  ∀ (s : State) (n : Nat), s.cmdReady →
    (exec (.dispatch 0) s = .next { s with raised := s.raised ++ [.invalidParams .emptyPayload], ret := .status .ignored }) ∧
    (∀ rest, s.payload n = some (0x01 :: rest) → n ≠ 2 →
      exec (.dispatch n) s = .next { s with raised := s.raised ++ [.invalidParams .lengthMismatch], ret := .status .ignored }) ∧
    (∀ rest, s.payload n = some (0x10 :: rest) → (n < 2 + s.cfg.idw.bytes ∨ n > 2 + s.cfg.idw.bytes + 8) →
      exec (.dispatch n) s = .next { s with raised := s.raised ++ [.invalidParams .lengthMismatch], ret := .status .ignored }) ∧
    (∀ rest dlc, s.payload n = some (0x10 :: rest) → 2 + s.cfg.idw.bytes ≤ n → n ≤ 2 + s.cfg.idw.bytes + 8 →
      rest[s.cfg.idw.bytes]? = some dlc → 8 < dlc.toNat →
      exec (.dispatch n) s = .next { s with raised := s.raised ++ [.invalidParams .dlcTooLarge], ret := .status .ignored }) ∧
    (∀ rest dlc, s.payload n = some (0x10 :: rest) → 2 + s.cfg.idw.bytes ≤ n → n ≤ 2 + s.cfg.idw.bytes + 8 →
      rest[s.cfg.idw.bytes]? = some dlc → dlc.toNat ≤ 8 → n ≠ 2 + s.cfg.idw.bytes + dlc.toNat →
      exec (.dispatch n) s = .next { s with raised := s.raised ++ [.invalidParams .lengthMismatch], ret := .status .ignored }) ∧
    (∀ id rest, s.payload n = some (id :: rest) → id ≠ 0x01 → id ≠ 0x10 →
      exec (.dispatch n) s = .next { s with raised := s.raised ++ [.invalidParams .unknownCommand], ret := .status .ignored })

/-- DISPATCH routes a well-shaped payload to its command by the first byte (R180, R112, R113); it is refused where it would read past the payload SCAN copied (R26, U2). -/
def Obligations.DispatchRoutesCommands : Prop :=
  ∀ s : State, s.cmdReady →
    (∀ param, s.payload 2 = some [0x01, param] →
      ∃ t, exec (.dispatch 2) s = .next t ∧ exec (.connect param) s = .next t) ∧
    (∀ (ident : BitVec 32) (data : List Byte), ident.toNat < 2 ^ (8 * s.cfg.idw.bytes) → data.length ≤ 8 →
      s.payload (2 + s.cfg.idw.bytes + data.length) = some (0x10 :: (leBytes s.cfg.idw.bytes ident.toNat ++ BitVec.ofNat 8 data.length :: data)) →
      ∃ t, exec (.dispatch (2 + s.cfg.idw.bytes + data.length)) s = .next t ∧ exec (.canSend ident data) s = .next t) ∧
    (∀ n, s.cmdLen < n → exec (.dispatch n) s = .refused .unwrittenRead)

/-- R190: an unknown command has no effect but its event and the status IGNORED, called directly or by DISPATCH, whatever its id and its rest; in a SCAN the state changes only in SCAN's own CMD and RD writes, the event and the result. -/
def Obligations.UnknownCommandIsNoOp : Prop :=
  (∀ (s : State) (id : Byte) (rest : List Byte), s.cmdReady →
    exec (.unknown id rest) s = .next { s with raised := s.raised ++ [.invalidParams .unknownCommand], ret := .status .ignored } ∧
    ∀ n, s.payload n = some (id :: rest) → id ≠ 0x01 → id ≠ 0x10 →
      exec (.dispatch n) s = .next { s with raised := s.raised ++ [.invalidParams .unknownCommand], ret := .status .ignored }) ∧
  (∀ (s : State) (bs : List Byte) (seq : Nat) (id : Byte) (rest : List Byte), s.parserReady → s.unread = some bs →
    scanBytes s.cfg bs = .ok (seq, id :: rest) → rest.length + 1 ≤ s.cfg.cmdMax → id ≠ 0x01 → id ≠ 0x10 →
      exec .scan s = .next { s with
        cmd := s.cmd.writeSeq 0 (id :: rest)
        cmdLen := rest.length + 1
        rd := (s.rd + (s.cfg.ovh + (rest.length + 1))) % s.cfg.cap
        raised := s.raised ++ [.invalidParams .unknownCommand]
        ret := .outcome (.accept (rest.length + 1)) })

/-- CONNECT 1 from READY or CONFIGURED, with an idle controller that accepts every call and default names in the table: CONFIGURE, then START as a further step; the bridge is STARTED with the default timing (R183, R184). -/
def Obligations.ConnectStartsTheBridge : Prop :=
  ∀ (s : State) (a d : BitrateTuple), s.cmdReady → s.bst ≠ .started → s.env.ctrlIdle = true → s.env.configureOk = true →
    s.env.startOk = true → s.env.armOk = true → romLookup s.cfg.bitrateRom s.cfg.defaultArb = some a →
    romLookup s.cfg.bitrateRom s.cfg.defaultData = some d →
      ∃ t, exec (.connect 0x01) s = .next t ∧ t.bst = .configured ∧
        cmdResume t = .next { s with
          timing := some { arbitration := a, dataPhase := d }, bst := .started, irqEn := true, notifArmed := true
          ret := .status .done
          outputs := s.outputs ++ [.ctrlConfigure { arbitration := a, dataPhase := d } true, .ctrlStart true, .ctrlArm true] }

/-- CONNECT 1 where CONFIGURE fails, the controller not idle (STARTED among it), a default name missing from the table or the call refused: the bridge is as before and START is not called (R183, R184, R201). Where CONFIGURE succeeds and START fails, its result is not used and the bridge stays CONFIGURED (R183, R205). -/
def Obligations.ConnectFailsWithoutStarting : Prop :=
  ∀ s : State, s.cmdReady →
    ((s.bst = .started ∨ s.env.ctrlIdle = false) →
      exec (.connect 0x01) s = .next { s with raised := s.raised ++ [.configFailure .notIdle], ret := .status .done }) ∧
    (s.bst ≠ .started → s.env.ctrlIdle = true →
      (romLookup s.cfg.bitrateRom s.cfg.defaultArb = none ∨ romLookup s.cfg.bitrateRom s.cfg.defaultData = none) →
      exec (.connect 0x01) s = .next { s with raised := s.raised ++ [.configFailure .badTimingEntry], ret := .status .done }) ∧
    (∀ a d, s.bst ≠ .started → s.env.ctrlIdle = true →
      romLookup s.cfg.bitrateRom s.cfg.defaultArb = some a → romLookup s.cfg.bitrateRom s.cfg.defaultData = some d →
      (s.env.configureOk = false → exec (.connect 0x01) s = .next { s with
        outputs := s.outputs ++ [.ctrlConfigure { arbitration := a, dataPhase := d } false]
        raised := s.raised ++ [.configFailure .peripheral]
        ret := .status .done }) ∧
      (s.env.configureOk = true → (s.env.startOk = false ∨ s.env.armOk = false) →
        ∃ t, exec (.connect 0x01) s = .next t ∧ cmdResume t = .next { s with
          timing := some { arbitration := a, dataPhase := d }, bst := .configured
          outputs := s.outputs ++ [.ctrlConfigure { arbitration := a, dataPhase := d } true, .ctrlStart s.env.startOk] ++
            (if s.env.startOk then [.ctrlArm false] else [])
          raised := s.raised ++ [.configFailure .peripheral]
          ret := .status .done }))

/-- CONNECT with any other parameter, and STOP called directly: the interrupt line first, then the notifications, then the controller, as three steps; STARTED becomes CONFIGURED, and nothing else changes (R183, R208, R349). -/
def Obligations.StopTakesThreeOrderedSteps : Prop :=
  ∀ (s : State) (cmd : Bool) (param : Byte), s.cmdReady → param ≠ 0x01 →
    let r1 : State := { s with irqEn := false, cmdctx := [.stop2 cmd] }
    let r2 : State := { s with irqEn := false, notifArmed := false, cmdctx := [.stop3 cmd], outputs := s.outputs ++ [.ctrlDisarm s.env.disarmOk] }
    exec (if cmd then .connect param else .stop) s = .next r1 ∧ cmdResume r1 = .next r2 ∧
      cmdResume r2 = .next { s with
        irqEn := false
        notifArmed := false
        bst := if s.bst = .started then .configured else s.bst
        outputs := s.outputs ++ [.ctrlDisarm s.env.disarmOk, .ctrlStop s.env.stopOk]
        raised := if s.env.stopOk then s.raised else s.raised ++ [.configFailure .peripheral]
        ret := if cmd then .status .done else .bool s.env.stopOk }

/-- CAN_SEND with an identifier its build accepts queues exactly one classic message with the identifier, type, data and DLC given, whatever BST is, and then signals the bridge task unless a transmission is in flight; into a full queue the command has no effect but the event (R186, R212, R216). -/
def Obligations.CanSendQueuesOneMessage : Prop :=
  ∀ (s : State) (ident : BitVec 32) (data : List Byte) (ty : IdType) (id : BitVec 29), s.cmdReady → data.length ≤ 8 →
    classify s.cfg ident = some (ty, id) →
      let m : CanMessage := { identifier := id, idType := ty, msgFormat := .classic, dlcCode := BitVec.ofNat 4 data.length, payload := data }
      let sent : State := { s with
        txq := s.txq ++ [m]
        notif := { s.notif with txReady := s.notif.txReady || !s.txInflight }
        ret := .status .done }
      (s.txq.length < 3 → s.cfg.atomicOps = true → exec (.canSend ident data) s = .next sent) ∧
      (s.txq.length < 3 → s.cfg.atomicOps = false →
        exec (.canSend ident data) s = .next { s with txq := s.txq ++ [m], cmdctx := [.send2 true] } ∧
        cmdResume { s with txq := s.txq ++ [m], cmdctx := [.send2 true] } = .next sent) ∧
      (3 ≤ s.txq.length → exec (.canSend ident data) s = .next { s with raised := s.raised ++ [.backpressure .txQueueFull], ret := .status .done })

/-- The identifier classification (R187): two-byte identifiers are standard, four-byte ones standard up to 0x7FF and extended up to 0x1FFFFFFF; above the range the command is ignored (DROP) or the low bits are kept (MASK). -/
def Obligations.IdentifierClassification : Prop :=
  ∀ (c : Config) (ident : BitVec 32),
    (ident.toNat ≤ 0x7FF → ∃ id, classify c ident = some (.standard, id) ∧ id.toNat = ident.toNat) ∧
    (c.idw = .two → 0x7FF < ident.toNat → c.idRangePolicy = .drop → classify c ident = none) ∧
    (c.idw = .two → 0x7FF < ident.toNat → c.idRangePolicy = .mask →
      ∃ id, classify c ident = some (.standard, id) ∧ id.toNat = ident.toNat % 2 ^ 11) ∧
    (c.idw = .four → 0x7FF < ident.toNat → ident.toNat ≤ 0x1FFFFFFF →
      ∃ id, classify c ident = some (.extended, id) ∧ id.toNat = ident.toNat) ∧
    (c.idw = .four → 0x1FFFFFFF < ident.toNat → c.idRangePolicy = .drop → classify c ident = none) ∧
    (c.idw = .four → 0x1FFFFFFF < ident.toNat → c.idRangePolicy = .mask →
      ∃ id, classify c ident = some (.extended, id) ∧ id.toNat = ident.toNat % 2 ^ 29) ∧
    ∀ (s : State) (data : List Byte), s.cmdReady → s.cfg = c → data.length ≤ 8 → classify c ident = none →
      exec (.canSend ident data) s = .next { s with raised := s.raised ++ [.invalidParams .idOutOfRange], ret := .status .ignored }

/-- The command context's frame: no command, bridge operation, SCAN, PROCESS or FRAME, and no further step of CMDCTX, writes RING, WR, SEQ, RXQ, TX_INFLIGHT, EGQ, BRIDGE's marker or a formatting buffer; TXQ at most gains one element; outside SCAN, PROCESS and FRAME, CMD and RD stay too (the writers R22, R23, R27, R35, R41, R46, R47 and R71 name, and the state that R153, R183, R186, R201, R205, R208 and R212 say their operations write). -/
def Obligations.CommandContextFrame : Prop :=
  ∀ (s t : State) (i : Instr), ((exec i s = .next t ∧ commandContext i = true) ∨ cmdResume s = .next t) →
    t = { s with
      rd := t.rd, cmd := t.cmd, cmdLen := t.cmdLen, lock := t.lock, txq := t.txq, bst := t.bst, timing := t.timing, irqEn := t.irqEn
      notifArmed := t.notifArmed, notif := t.notif, cmdctx := t.cmdctx, ret := t.ret, raised := t.raised, outputs := t.outputs } ∧
    (t.txq = s.txq ∨ ∃ m, t.txq = s.txq ++ [m]) ∧
    (exec i s = .next t → commandContext i = true → i ≠ .scan → i ≠ .process → (∀ seq p, i ≠ .frame seq p) →
      t.cmd = s.cmd ∧ t.cmdLen = s.cmdLen ∧ t.rd = s.rd ∧ t.lock = s.lock)

/-! ### The bridge -/

/-- CONFIGURE (R201, R301): with an idle controller, both names in the table and an accepted call it applies the pair; otherwise it returns false without a side effect, testing idleness first, then the names, then the call. -/
def Obligations.ConfigureAppliesTiming : Prop :=
  ∀ (s : State) (arb data : BitrateName), s.cmdReady →
    ((s.bst = .started ∨ s.env.ctrlIdle = false) →
      exec (.configure arb data) s = .next { s with raised := s.raised ++ [.configFailure .notIdle], ret := .bool false }) ∧
    (s.bst ≠ .started → s.env.ctrlIdle = true → (romLookup s.cfg.bitrateRom arb = none ∨ romLookup s.cfg.bitrateRom data = none) →
      exec (.configure arb data) s = .next { s with raised := s.raised ++ [.configFailure .badTimingEntry], ret := .bool false }) ∧
    (∀ a d, s.bst ≠ .started → s.env.ctrlIdle = true → romLookup s.cfg.bitrateRom arb = some a → romLookup s.cfg.bitrateRom data = some d →
      (s.env.configureOk = true → exec (.configure arb data) s = .next { s with
        timing := some { arbitration := a, dataPhase := d }, bst := .configured
        outputs := s.outputs ++ [.ctrlConfigure { arbitration := a, dataPhase := d } true], ret := .bool true }) ∧
      (s.env.configureOk = false → exec (.configure arb data) s = .next { s with
        outputs := s.outputs ++ [.ctrlConfigure { arbitration := a, dataPhase := d } false]
        raised := s.raised ++ [.configFailure .peripheral], ret := .bool false }))

/-- START (R205): accepted only in CONFIGURED; with both calls accepted the notifications and the line are enabled and the bridge is STARTED; a refused call leaves the bridge as it was. -/
def Obligations.StartEnablesInterrupts : Prop :=
  ∀ s : State, s.cmdReady →
    (s.bst ≠ .configured → exec .start s = .next { s with raised := s.raised ++ [.configFailure .badState], ret := .bool false }) ∧
    (s.bst = .configured → s.env.startOk = true → s.env.armOk = true → exec .start s = .next { s with
      bst := .started, irqEn := true, notifArmed := true
      outputs := s.outputs ++ [.ctrlStart true, .ctrlArm true], ret := .bool true }) ∧
    (s.bst = .configured → s.env.startOk = true → s.env.armOk = false → exec .start s = .next { s with
      outputs := s.outputs ++ [.ctrlStart true, .ctrlArm false]
      raised := s.raised ++ [.configFailure .peripheral], ret := .bool false }) ∧
    (s.bst = .configured → s.env.startOk = false → exec .start s = .next { s with
      outputs := s.outputs ++ [.ctrlStart false]
      raised := s.raised ++ [.configFailure .peripheral], ret := .bool false })

/-- SEND (R212): step S1 pushes, step S2 signals unless a transmission is in flight; with ATOMIC_OPS on they are one step; a full queue returns false and nothing changes. -/
def Obligations.SendPushesThenSignals : Prop :=
  ∀ (s : State) (m : CanMessage), s.cmdReady → m.wf →
    let sent : State := { s with
      txq := s.txq ++ [m]
      notif := { s.notif with txReady := s.notif.txReady || !s.txInflight }
      ret := .bool true }
    (s.txq.length < 3 → s.cfg.atomicOps = true → exec (.send m) s = .next sent) ∧
    (s.txq.length < 3 → s.cfg.atomicOps = false →
      exec (.send m) s = .next { s with txq := s.txq ++ [m], cmdctx := [.send2 false] } ∧
      cmdResume { s with txq := s.txq ++ [m], cmdctx := [.send2 false] } = .next sent) ∧
    (3 ≤ s.txq.length → exec (.send m) s = .next { s with ret := .bool false })

/-- RX_ISR (R220): exactly one message is taken from the controller and pushed, or silently dropped where RXQ is full; RX_AVAIL is signalled in both cases, and nothing else changes. -/
def Obligations.RxInterruptQueuesOrDrops : Prop :=
  ∀ (s : State) (m : CanMessage), s.interruptReady → m.wf →
    exec (.rxIsr m) s = .next { s with
      rxq := if s.rxq.length < 3 then s.rxq ++ [m] else s.rxq
      notif := { s.notif with rxAvail := true }
      outputs := s.outputs ++ [.ctrlRxPop m]
      raised := if s.rxq.length < 3 then s.raised else s.raised ++ [.backpressure .rxQueueFull] }

/-- R224: TXE_ISR is taken when the line and the notifications are enabled; it sets TX_READY and touches nothing else, neither TXQ nor TX_INFLIGHT. Otherwise it is not taken and nothing changes. -/
def Obligations.TxEmptyInterruptSignals : Prop :=
  (∀ s : State, s.interruptReady → exec .txeIsr s = .next { s with notif := { s.notif with txReady := true } }) ∧
  (∀ s : State, ¬ (s.irqEn = true ∧ s.notifArmed = true) → exec .txeIsr s = .next s)

/-- A CAN interrupt is not taken while the line or the notifications are disabled: nothing changes (R291, R220, R224). -/
def Obligations.DisabledInterruptsAreNotTaken : Prop :=
  ∀ (s : State) (m : CanMessage), (s.irqEn = false ∨ s.notifArmed = false) →
    exec (.rxIsr m) s = .next s ∧ exec .txeIsr s = .next s

/-- Interrupt context touches only the queues it may, the notification bits and the outputs: never RING, RD, WR, CMD, LOCK, SEQ, the bridge registers or a task's marker (R43, R297, R310). -/
def Obligations.InterruptContextFrame : Prop :=
  ∀ (s t : State) (i : Instr), instrContext i = .interrupt → exec i s = .next t →
    t = { s with rxq := t.rxq, notif := t.notif, egq := t.egq, outputs := t.outputs, raised := t.raised }

/-- TASK_WAIT (R228, R294): takes and clears both bits in one step and serves TX-ready first; with no bit set, or away from WAIT, the task has no such step. With ATOMIC_OPS on, TASK_TX and TASK_RX of the bits taken are part of the same step, so that BRIDGE is observed at WAIT only (R46, R240). -/
def Obligations.TaskWaitTakesAndClears : Prop :=
  ∀ s : State, s.running = true →
    let taken (pc : BridgePc) : State := { s with notif := { txReady := false, rxAvail := false }, bridge := pc }
    (s.bridge = .wait → s.notif.txReady = true →
      (s.cfg.atomicOps = false → exec .taskWait s = .next (taken (.tx1 s.notif))) ∧
      (s.cfg.atomicOps = true → ∃ x, exec .taskTx (taken (.tx1 s.notif)) = .next x ∧
        exec .taskWait s = if s.notif.rxAvail then exec .taskRx x else .next x)) ∧
    (s.bridge = .wait → s.notif.txReady = false → s.notif.rxAvail = true →
      (s.cfg.atomicOps = false → exec .taskWait s = .next (taken (.rx s.notif))) ∧
      (s.cfg.atomicOps = true → exec .taskWait s = exec .taskRx (taken (.rx s.notif)))) ∧
    ((s.bridge ≠ .wait ∨ (s.notif.txReady = false ∧ s.notif.rxAvail = false)) → exec .taskWait s = .next s)

/-- TASK_TX (R231): step T1 pops one element, step T2 submits it and marks it in flight, or clears the flag where there was none; then RX is served if it was pending. With ATOMIC_OPS on both are one step. -/
def Obligations.TaskTxPopsAndSubmits : Prop :=
  ∀ (s : State) (pending : Notif), s.running = true →
    let next : BridgePc := if pending.rxAvail then .rx pending else .wait
    (∀ e, s.bridge = .tx2 pending (some e) → exec .taskTx s = .next { s with
      bridge := next, txInflight := true, outputs := s.outputs ++ [.ctrlSubmit e] }) ∧
    (s.bridge = .tx2 pending none → exec .taskTx s = .next { s with bridge := next, txInflight := false }) ∧
    (∀ e q, s.bridge = .tx1 pending → s.txq = e :: q →
      (s.cfg.atomicOps = false → exec .taskTx s = .next { s with txq := q, bridge := .tx2 pending (some e) }) ∧
      (s.cfg.atomicOps = true → exec .taskTx s = .next { s with
        txq := q, bridge := next, txInflight := true, outputs := s.outputs ++ [.ctrlSubmit e] })) ∧
    (s.bridge = .tx1 pending → s.txq = [] →
      (s.cfg.atomicOps = false → exec .taskTx s = .next { s with bridge := .tx2 pending none }) ∧
      (s.cfg.atomicOps = true → exec .taskTx s = .next { s with bridge := next, txInflight := false }))

/-- TASK_RX (R236): pops one element and reports it; an empty queue is no error. The pop is one step and REPORT's own steps follow it, the same as those of a REPORT called with the element, fragments included; with ATOMIC_OPS on the pop and the whole REPORT are one step. A message that fits one packet is written, queued or dropped by EMIT two steps after the pop. -/
def Obligations.TaskRxReportsOneElement : Prop :=
  ∀ (s : State) (pending : Notif), s.running = true → s.cfg.sizesOk → s.bridge = .rx pending →
    (s.rxq = [] → exec .taskRx s = .next { s with bridge := .wait }) ∧
    (∀ m q, s.rxq = m :: q → m.wf → (m.nbytes ≤ s.cfg.cap1 ∨ s.cfg.fragMode = .twoPacket) →
      let popped : State := { s with rxq := q, bridge := .wait }
      (s.cfg.atomicOps = false → ∃ t u, exec .taskRx s = .next t ∧ t = { s with rxq := q, bridge := t.bridge } ∧
        exec .taskRx t = .next u ∧ exec (.report m) popped = .next u) ∧
      (s.cfg.atomicOps = true → ∃ v, exec .taskRx s = .next v ∧ exec (.report m) popped = .next v)) ∧
    (∀ m q, s.rxq = m :: q → m.wf → m.nbytes ≤ s.cfg.cap1 →
      let id : Byte := 0x20 + (if m.msgFormat = .fd then 2 else 0) + (if m.idType = .extended then 1 else 0)
      let pkt : List Byte := packetBytes s.cfg s.seq ([id] ++ leBytes 4 m.identifier.toNat ++ [BitVec.ofNat 8 m.nbytes] ++ m.payload)
      let v : State := { emitPacket pkt s.env.transportAvailable { s with
        rxq := q, buf := pkt, seq := (s.seq + 1) % s.cfg.seqMod } with bridge := .wait }
      (s.cfg.atomicOps = false → ∃ t u, exec .taskRx s = .next t ∧ exec .taskRx t = .next u ∧ exec .taskRx u = .next v) ∧
      (s.cfg.atomicOps = true → exec .taskRx s = .next v))

/-- Only TASK_TX and INIT write TX_INFLIGHT (R41, R238); with ATOMIC_OPS on TASK_TX is part of TASK_WAIT's step (R46). -/
def Obligations.OnlyTaskTxWritesInflight : Prop :=
  (∀ (s t : State) (i : Instr), exec i s = .next t →
    t.txInflight = s.txInflight ∨ i = .taskTx ∨ (i = .taskWait ∧ s.cfg.atomicOps = true) ∨ ∃ ok, i = .init ok) ∧
  (∀ s t : State, cmdResume s = .next t → t.txInflight = s.txInflight)

/-- The queues are FIFO: an operation leaves a queue as it is, appends one element, takes the oldest, or (INIT) empties it; with ATOMIC_OPS on a fragmented report appends up to two packets in its one step (R34, R35, R47, R84, R85). -/
def Obligations.QueuesAreFifo : Prop :=
  ∀ (s t : State) (i : Instr), exec i s = .next t → (∀ ok, i ≠ .init ok) →
    (t.txq = s.txq ∨ (∃ m, t.txq = s.txq ++ [m]) ∨ ∃ m, s.txq = m :: t.txq) ∧
    (t.rxq = s.rxq ∨ (∃ m, t.rxq = s.rxq ++ [m]) ∨ ∃ m, s.rxq = m :: t.rxq) ∧
    ((∃ ps, t.egq = s.egq ++ ps ∧ ps.length ≤ if s.cfg.atomicOps then 2 else 1) ∨ ∃ p, s.egq = p :: t.egq)

/-- The stranded TX entry must be possible with ATOMIC_OPS off (R345): SEND falls between TASK_TX's two steps after a completion; the message stays queued with nothing in flight and no signal. -/
def Obligations.StrandedEntryIsReachable : Prop :=
  ∀ (s : State) (m : CanMessage), s.cmdReady → s.bridge = .wait → s.cfg.atomicOps = false → s.txq = [] → s.txInflight = true →
    s.notif = { txReady := true, rxAvail := false } → m.wf →
      ∃ s1 s2 s3 s4 s5, exec .taskWait s = .next s1 ∧ exec .taskTx s1 = .next s2 ∧ exec (.send m) s2 = .next s3 ∧
        cmdResume s3 = .next s4 ∧ exec .taskTx s4 = .next s5 ∧ s5.txq = [m] ∧ s5.txInflight = false ∧
        s5.notif = { txReady := false, rxAvail := false } ∧ s5.bridge = .wait ∧ s5.outputs = s.outputs

/-! ### Reports and egress -/

/-- REPORT of a message that fits one packet (R252 to R256): the packet is the frame of id, identifier, byte count and data, padded with zeros to PKT; it consumes one sequence number, and the next step EMITs it: written, queued, or dropped with its event (R265). With ATOMIC_OPS on both are one step. -/
def Obligations.ReportFormatsOnePacket : Prop :=
  ∀ (s : State) (m : CanMessage), s.bridgeReady → s.cfg.sizesOk → m.wf → m.nbytes ≤ s.cfg.cap1 →
    let id : Byte := 0x20 + (if m.msgFormat = .fd then 2 else 0) + (if m.idType = .extended then 1 else 0)
    let p : List Byte := [id] ++ leBytes 4 m.identifier.toNat ++ [BitVec.ofNat 8 m.nbytes] ++ m.payload
    let pkt : List Byte := frameBytes s.cfg s.seq p ++ List.replicate (s.cfg.pkt - (s.cfg.ovh + 6 + m.nbytes)) 0
    let formatted : State := { s with buf := pkt, seq := (s.seq + 1) % s.cfg.seqMod, bridge := .emit pkt [] }
    let emitted : State := { s with
      buf := pkt
      seq := (s.seq + 1) % s.cfg.seqMod
      outputs := if s.env.transportAvailable then s.outputs ++ [.transportWrite pkt] else s.outputs
      egq := if s.env.transportAvailable = false ∧ s.egq.length < s.cfg.egqCap then s.egq ++ [pkt] else s.egq
      raised := if s.env.transportAvailable = false ∧ s.cfg.egqCap ≤ s.egq.length then s.raised ++ [.backpressure .egressQueueFull] else s.raised
      ret := .bool (s.env.transportAvailable || decide (s.egq.length < s.cfg.egqCap)) }
    pkt.length = s.cfg.pkt ∧
    (s.cfg.atomicOps = false → exec (.report m) s = .next formatted ∧ bridgeResume formatted = .next emitted) ∧
    (s.cfg.atomicOps = true → exec (.report m) s = .next emitted)

/-- REPORT of a message too long for one packet, TWO_PACKET mode (R260): two packets with consecutive sequence numbers, the first full and marked continued with the first CAP1 bytes, the second with the offset and the rest. Each is EMITted on its own, written, queued or dropped; with ATOMIC_OPS on all of it is one step, in which the second EMIT reads an availability of its own. -/
def Obligations.ReportFragmentsIntoTwoPackets : Prop :=
  ∀ (s : State) (m : CanMessage), s.bridgeReady → s.cfg.sizesOk → m.wf → s.cfg.cap1 < m.nbytes → s.cfg.fragMode = .twoPacket →
    let id : Byte := (0x20 + (if m.msgFormat = .fd then 2 else 0) + (if m.idType = .extended then 1 else 0)) ||| 0x80
    let p1 : List Byte := [id] ++ leBytes 4 m.identifier.toNat ++ [BitVec.ofNat 8 m.nbytes] ++ m.payload.take s.cfg.cap1
    let p2 : List Byte := [0x24, BitVec.ofNat 8 s.cfg.cap1] ++ m.payload.drop s.cfg.cap1
    let second : Nat := (s.seq + 1) % s.cfg.seqMod
    let pkt1 : List Byte := frameBytes s.cfg s.seq p1
    let pkt2 : List Byte := frameBytes s.cfg second p2 ++ List.replicate (s.cfg.pkt - (s.cfg.ovh + p2.length)) 0
    let emitted (first then_ : Bool) : State := { emitPacket pkt2 then_ (emitPacket pkt1 first s) with
      buf := pkt2, seq := (second + 1) % s.cfg.seqMod, bridge := .wait }
    pkt1.length = s.cfg.pkt ∧ pkt2.length = s.cfg.pkt ∧
    (s.cfg.atomicOps = false → ∃ t, exec (.report m) s = .next t ∧ t.bridge = .emit pkt1 [p2] ∧
      runBridge 3 t = .next (emitted s.env.transportAvailable s.env.transportAvailable)) ∧
    (s.cfg.atomicOps = true → exec (.report m) s = .next (emitted s.env.transportAvailable s.env.transportAgain))

/-- REPORT refuses a message too long for one packet with FRAG_MODE = REFUSE (R261), and a message that is not well formed (R262). -/
def Obligations.ReportRefusals : Prop :=
  ∀ (s : State) (m : CanMessage), s.bridgeReady →
    (m.wf → s.cfg.cap1 < m.nbytes → s.cfg.fragMode = .refuse → exec (.report m) s = .refused .oversizedReport) ∧
    (¬ m.wf → exec (.report m) s = .refused .illFormedMessage)

/-- The four single-packet report rows (R115, R116): each emits its own payload with its own id; the packet is formatted in one step and EMITted in the next, or with ATOMIC_OPS on in the same. -/
def Obligations.ReportRowsEmitTheirPayload : Prop :=
  ∀ (s : State) (ident : BitVec 32) (data : List Byte), s.bridgeReady → s.cfg.frameFits s.cfg.pkt (6 + data.length) →
    let body (id : Byte) : List Byte := packetBytes s.cfg s.seq ([id] ++ leBytes 4 ident.toNat ++ [BitVec.ofNat 8 data.length] ++ data)
    let formatted (id : Byte) : State := { s with buf := body id, seq := (s.seq + 1) % s.cfg.seqMod, bridge := .emit (body id) [] }
    let emitted (id : Byte) : State := { emitPacket (body id) s.env.transportAvailable { s with
      buf := body id, seq := (s.seq + 1) % s.cfg.seqMod } with bridge := .wait }
    let answer (id : Byte) : State := if s.cfg.atomicOps then emitted id else formatted id
    exec (.reportClassicStd ident data) s = .next (answer 0x20) ∧
    exec (.reportClassicExt ident data) s = .next (answer 0x21) ∧
    exec (.reportFdStd ident data) s = .next (answer 0x22) ∧
    exec (.reportFdExt ident data) s = .next (answer 0x23) ∧
    ∀ id, bridgeResume (formatted id) = .next (emitted id)

/-- The five rows of the two-packet design (R117, R118, R260): in TWO_PACKET mode each that fits a packet emits its own payload with its own id, formatted in one step and EMITted in the next, or with ATOMIC_OPS on in the same; in REFUSE mode each is refused (R261). BRIDGE at any packet EMITs it and goes on with the payloads left. -/
def Obligations.FragmentRowsEmitTheirPayload : Prop :=
  (∀ (s : State) (ident : BitVec 32) (n off : Byte) (data : List Byte), s.bridgeReady →
    let body (p : List Byte) : List Byte := packetBytes s.cfg s.seq p
    let formatted (p : List Byte) : State := { s with buf := body p, seq := (s.seq + 1) % s.cfg.seqMod, bridge := .emit (body p) [] }
    let emitted (p : List Byte) : State := { emitPacket (body p) s.env.transportAvailable { s with
      buf := body p, seq := (s.seq + 1) % s.cfg.seqMod } with bridge := .wait }
    let answer (p : List Byte) : State := if s.cfg.atomicOps then emitted p else formatted p
    let first (id : Byte) : List Byte := [id] ++ leBytes 4 ident.toNat ++ [n] ++ data
    (s.cfg.fragMode = .twoPacket → s.cfg.frameFits s.cfg.pkt (6 + data.length) →
      exec (.reportFirstClassicStd ident n data) s = .next (answer (first 0xA0)) ∧
      exec (.reportFirstClassicExt ident n data) s = .next (answer (first 0xA1)) ∧
      exec (.reportFirstFdStd ident n data) s = .next (answer (first 0xA2)) ∧
      exec (.reportFirstFdExt ident n data) s = .next (answer (first 0xA3))) ∧
    (s.cfg.fragMode = .twoPacket → s.cfg.frameFits s.cfg.pkt (2 + data.length) →
      exec (.reportCont off data) s = .next (answer ([0x24, off] ++ data))) ∧
    (∀ p, bridgeResume (formatted p) = .next (emitted p)) ∧
    (s.cfg.fragMode = .refuse →
      exec (.reportFirstClassicStd ident n data) s = .refused .oversizedReport ∧
      exec (.reportFirstClassicExt ident n data) s = .refused .oversizedReport ∧
      exec (.reportFirstFdStd ident n data) s = .refused .oversizedReport ∧
      exec (.reportFirstFdExt ident n data) s = .refused .oversizedReport ∧
      exec (.reportCont off data) s = .refused .oversizedReport)) ∧
  (∀ (u : State) (pkt : List Byte) (left : List (List Byte)), u.running = true → u.bridge = .emit pkt left →
    bridgeResume u = .next { emitPacket pkt u.env.transportAvailable u with
      bridge := match left with | [] => .wait | p :: ps => .second (p :: ps) })

/-- The host's reassembly rule (R260) gives back the whole report of a fragmented message, with the id of the single-packet form. -/
def Obligations.FragmentsReassemble : Prop :=
  ∀ (c : Config) (m : CanMessage) (seq : Nat), c.sizesOk → m.wf → c.cap1 < m.nbytes → c.fragMode = .twoPacket →
    ∃ p1 p2, reportPayloads c m = .ok [p1, p2] ∧
      reassemble c (seq, p1) ((seq + 1) % c.seqMod, p2) =
        some ([reportId m] ++ leBytes 4 m.identifier.toNat ++ [BitVec.ofNat 8 m.nbytes] ++ m.payload)

/-- R257: the worked example of a report. -/
def Obligations.WorkedReportExample : Prop :=
  ∀ s : State, s.bridgeReady → s.cfg.w = .two → s.cfg.pkt = 64 → s.seq = 0 →
    ∃ t, exec (.report { identifier := 0x123, idType := .standard, msgFormat := .classic, dlcCode := 2, payload := [0xAA, 0xBB] }) s = .next t ∧
      t.seq = 1 ∧ (s.cfg.atomicOps = false → t.bridge = .emit t.buf []) ∧
      t.buf = [0xFF, 0x0E, 0x00, 0x00, 0x00, 0x20, 0x23, 0x01, 0x00, 0x00, 0x02, 0xAA, 0xBB, 0x48] ++ List.replicate 50 0x00

/-- EMIT (R265, R266): an available transport is written at once whatever EGQ holds; otherwise the packet is queued, or dropped with the event where the queue is full. -/
def Obligations.EmitWritesQueuesOrDrops : Prop :=
  ∀ (s : State) (pkt : List Byte), s.bridgeReady → pkt.length = s.cfg.pkt →
    exec (.emit pkt true) s = .next { s with outputs := s.outputs ++ [.transportWrite pkt], ret := .bool true } ∧
    (s.egq.length < s.cfg.egqCap → exec (.emit pkt false) s = .next { s with egq := s.egq ++ [pkt], ret := .bool true }) ∧
    (s.cfg.egqCap ≤ s.egq.length → exec (.emit pkt false) s = .next { s with
      raised := s.raised ++ [.backpressure .egressQueueFull], ret := .bool false })

/-- TRANSPORT_READY and the keep-alive packet (R268, R120): the oldest queued packet is written; with none queued, PKT bytes of zero if the build has the keep-alive, else nothing. -/
def Obligations.TransportReadyDrainsTheQueue : Prop :=
  ∀ s : State, s.running = true →
    (∀ pkt q, s.egq = pkt :: q → exec .transportReady s = .next { s with egq := q, outputs := s.outputs ++ [.transportWrite pkt] } ∧
      exec .keepAlive s = .next s) ∧
    (s.egq = [] → exec .keepAlive s = exec .transportReady s ∧
      exec .transportReady s = .next { s with
        outputs := s.outputs ++ (if s.cfg.keepAlive then [.transportWrite (List.replicate s.cfg.pkt 0x00)] else []) })

/-! ### The whole machine -/

/-- The block right after reset satisfies the invariant, in every build whose sizes are in range. -/
def Obligations.ResetSatisfiesInvariant : Prop := ∀ c : Config, c.sizesOk → (State.resetWith c).Inv

/-- Every step keeps the invariant: memories in canonical form, indices and counters in range, unread cells written, queues bounded and well formed, TIMING and the interrupt enables as BST says, the stack, the lock and the bridge marker consistent, with ATOMIC_OPS on BRIDGE at WAIT, no SEND between its steps, and no queued message left without a transmission in flight or a signal. -/
def Obligations.StepKeepsInvariant : Prop := ∀ s t : State, s.Inv → step s = .next t → t.Inv

/-- No step changes the configuration (R10, R20). -/
def Obligations.StepKeepsConfiguration : Prop := ∀ s t : State, step s = .next t → t.cfg = s.cfg

/-- In a well-formed configuration (R11 to R13) no step from an invariant state faults (R287), and no operation can meet a byte that was never written, a DISPATCH of no more bytes than the payload in CMD among them (U2, R26). -/
def Obligations.WellFormedConfigurationNeverFaults : Prop :=
  ∀ s : State, s.Inv → s.cfg.payloadFits →
    (∀ f, step s ≠ .fault f) ∧ cmdResume s ≠ .refused .unwrittenRead ∧
      ∀ i, (∀ n, i = .dispatch n → n ≤ s.cmdLen) → exec i s ≠ .refused .unwrittenRead
end

