-- ==== Sys2Proof/Laws/Bytes.lean ====
section
/-! SUPPORT. Little-endian strings, byte sums, and the shape of a frame. -/

namespace Sys2Proof

@[simp] theorem leBytes_length (k v : Nat) : (leBytes k v).length = k := by
  induction k generalizing v with
  | zero => rfl
  | succ k ih => simp [leBytes, ih]

theorem unLE_leBytes (k v : Nat) : unLE (leBytes k v) = v % 256 ^ k := by
  induction k generalizing v with
  | zero => simp [leBytes, unLE, Nat.mod_one]
  | succ k ih =>
    simp only [leBytes, unLE, BitVec.toNat_ofNat, ih]
    rw [show 256 ^ (k + 1) = 256 * 256 ^ k by ring, Nat.mod_mul]

theorem unLE_lt (bs : List Byte) : unLE bs < 256 ^ bs.length := by
  induction bs with
  | nil => simp [unLE]
  | cons b bs ih =>
    have := b.isLt
    simp only [unLE, List.length_cons, pow_succ]
    omega

theorem leBytes_unLE (bs : List Byte) : leBytes bs.length (unLE bs) = bs := by
  induction bs with
  | nil => rfl
  | cons b bs ih =>
    have hb := b.isLt
    simp only [List.length_cons, leBytes, unLE]
    rw [show (b.toNat + 256 * unLE bs) / 256 = unLE bs by omega, ih]
    congr 1
    apply BitVec.eq_of_toNat_eq
    simp only [BitVec.toNat_ofNat]
    omega

@[simp] theorem sum8_append (a b : List Byte) : sum8 (a ++ b) = sum8 a + sum8 b := by
  induction a with
  | nil => simp [sum8]
  | cons x a ih => simp [sum8, ih, BitVec.add_assoc]

theorem Config.seqMod_eq (c : Config) : c.seqMod = 256 ^ c.w.bytes := by
  simp only [Config.seqMod]
  rw [show (256 : Nat) = 2 ^ 8 by norm_num, ← pow_mul]

theorem Config.seqMod_pos (c : Config) : 0 < c.seqMod := by
  unfold Config.seqMod; positivity

@[simp] theorem frameBytes_length (c : Config) (seq : Nat) (p : List Byte) : (frameBytes c seq p).length = c.ovh + p.length := by
  simp [frameBytes, Config.ovh]; omega

theorem frameBytes_sum (c : Config) (seq : Nat) (p : List Byte) : sum8 (frameBytes c seq p) = 0 := by
  have h (x : Byte) : x + (0 - x + 0) = 0 := by
    apply BitVec.eq_of_toNat_eq
    simp
  simp only [frameBytes, sum8_append, sum8]
  exact h _

end Sys2Proof
end

