-- ==== Sys2Proof/Laws/State.lean ====
section
/-! SUPPORT. One lemma per field per update of State, so that no later proof unfolds a record update. -/

namespace Sys2Proof.Machine

variable (s : State)

/-! `State.raise` -/
@[simp] theorem State.raise_ring (e : Raised) : (s.raise e).ring = s.ring := rfl
@[simp] theorem State.raise_wr (e : Raised) : (s.raise e).wr = s.wr := rfl
@[simp] theorem State.raise_rd (e : Raised) : (s.raise e).rd = s.rd := rfl
@[simp] theorem State.raise_cmd (e : Raised) : (s.raise e).cmd = s.cmd := rfl
@[simp] theorem State.raise_cmdLen (e : Raised) : (s.raise e).cmdLen = s.cmdLen := rfl
@[simp] theorem State.raise_seq (e : Raised) : (s.raise e).seq = s.seq := rfl
@[simp] theorem State.raise_lock (e : Raised) : (s.raise e).lock = s.lock := rfl
@[simp] theorem State.raise_txq (e : Raised) : (s.raise e).txq = s.txq := rfl
@[simp] theorem State.raise_rxq (e : Raised) : (s.raise e).rxq = s.rxq := rfl
@[simp] theorem State.raise_bst (e : Raised) : (s.raise e).bst = s.bst := rfl
@[simp] theorem State.raise_timing (e : Raised) : (s.raise e).timing = s.timing := rfl
@[simp] theorem State.raise_irqEn (e : Raised) : (s.raise e).irqEn = s.irqEn := rfl
@[simp] theorem State.raise_notifArmed (e : Raised) : (s.raise e).notifArmed = s.notifArmed := rfl
@[simp] theorem State.raise_txInflight (e : Raised) : (s.raise e).txInflight = s.txInflight := rfl
@[simp] theorem State.raise_notif (e : Raised) : (s.raise e).notif = s.notif := rfl
@[simp] theorem State.raise_bridge (e : Raised) : (s.raise e).bridge = s.bridge := rfl
@[simp] theorem State.raise_cmdctx (e : Raised) : (s.raise e).cmdctx = s.cmdctx := rfl
@[simp] theorem State.raise_egq (e : Raised) : (s.raise e).egq = s.egq := rfl
@[simp] theorem State.raise_buf (e : Raised) : (s.raise e).buf = s.buf := rfl
@[simp] theorem State.raise_inited (e : Raised) : (s.raise e).inited = s.inited := rfl
@[simp] theorem State.raise_cfg (e : Raised) : (s.raise e).cfg = s.cfg := rfl
@[simp] theorem State.raise_env (e : Raised) : (s.raise e).env = s.env := rfl
@[simp] theorem State.raise_script (e : Raised) : (s.raise e).script = s.script := rfl
@[simp] theorem State.raise_tick (e : Raised) : (s.raise e).tick = s.tick := rfl
@[simp] theorem State.raise_ret (e : Raised) : (s.raise e).ret = s.ret := rfl
@[simp] theorem State.raise_raised (e : Raised) : (s.raise e).raised = s.raised ++ [e] := rfl
@[simp] theorem State.raise_outputs (e : Raised) : (s.raise e).outputs = s.outputs := rfl

/-! `State.emitOutput` -/
@[simp] theorem State.emitOutput_ring (o : Output) : (s.emitOutput o).ring = s.ring := rfl
@[simp] theorem State.emitOutput_wr (o : Output) : (s.emitOutput o).wr = s.wr := rfl
@[simp] theorem State.emitOutput_rd (o : Output) : (s.emitOutput o).rd = s.rd := rfl
@[simp] theorem State.emitOutput_cmd (o : Output) : (s.emitOutput o).cmd = s.cmd := rfl
@[simp] theorem State.emitOutput_cmdLen (o : Output) : (s.emitOutput o).cmdLen = s.cmdLen := rfl
@[simp] theorem State.emitOutput_seq (o : Output) : (s.emitOutput o).seq = s.seq := rfl
@[simp] theorem State.emitOutput_lock (o : Output) : (s.emitOutput o).lock = s.lock := rfl
@[simp] theorem State.emitOutput_txq (o : Output) : (s.emitOutput o).txq = s.txq := rfl
@[simp] theorem State.emitOutput_rxq (o : Output) : (s.emitOutput o).rxq = s.rxq := rfl
@[simp] theorem State.emitOutput_bst (o : Output) : (s.emitOutput o).bst = s.bst := rfl
@[simp] theorem State.emitOutput_timing (o : Output) : (s.emitOutput o).timing = s.timing := rfl
@[simp] theorem State.emitOutput_irqEn (o : Output) : (s.emitOutput o).irqEn = s.irqEn := rfl
@[simp] theorem State.emitOutput_notifArmed (o : Output) : (s.emitOutput o).notifArmed = s.notifArmed := rfl
@[simp] theorem State.emitOutput_txInflight (o : Output) : (s.emitOutput o).txInflight = s.txInflight := rfl
@[simp] theorem State.emitOutput_notif (o : Output) : (s.emitOutput o).notif = s.notif := rfl
@[simp] theorem State.emitOutput_bridge (o : Output) : (s.emitOutput o).bridge = s.bridge := rfl
@[simp] theorem State.emitOutput_cmdctx (o : Output) : (s.emitOutput o).cmdctx = s.cmdctx := rfl
@[simp] theorem State.emitOutput_egq (o : Output) : (s.emitOutput o).egq = s.egq := rfl
@[simp] theorem State.emitOutput_buf (o : Output) : (s.emitOutput o).buf = s.buf := rfl
@[simp] theorem State.emitOutput_inited (o : Output) : (s.emitOutput o).inited = s.inited := rfl
@[simp] theorem State.emitOutput_cfg (o : Output) : (s.emitOutput o).cfg = s.cfg := rfl
@[simp] theorem State.emitOutput_env (o : Output) : (s.emitOutput o).env = s.env := rfl
@[simp] theorem State.emitOutput_script (o : Output) : (s.emitOutput o).script = s.script := rfl
@[simp] theorem State.emitOutput_tick (o : Output) : (s.emitOutput o).tick = s.tick := rfl
@[simp] theorem State.emitOutput_ret (o : Output) : (s.emitOutput o).ret = s.ret := rfl
@[simp] theorem State.emitOutput_raised (o : Output) : (s.emitOutput o).raised = s.raised := rfl
@[simp] theorem State.emitOutput_outputs (o : Output) : (s.emitOutput o).outputs = s.outputs ++ [o] := rfl

/-! `State.returns` -/
@[simp] theorem State.returns_ring (r : Ret) : (s.returns r).ring = s.ring := rfl
@[simp] theorem State.returns_wr (r : Ret) : (s.returns r).wr = s.wr := rfl
@[simp] theorem State.returns_rd (r : Ret) : (s.returns r).rd = s.rd := rfl
@[simp] theorem State.returns_cmd (r : Ret) : (s.returns r).cmd = s.cmd := rfl
@[simp] theorem State.returns_cmdLen (r : Ret) : (s.returns r).cmdLen = s.cmdLen := rfl
@[simp] theorem State.returns_seq (r : Ret) : (s.returns r).seq = s.seq := rfl
@[simp] theorem State.returns_lock (r : Ret) : (s.returns r).lock = s.lock := rfl
@[simp] theorem State.returns_txq (r : Ret) : (s.returns r).txq = s.txq := rfl
@[simp] theorem State.returns_rxq (r : Ret) : (s.returns r).rxq = s.rxq := rfl
@[simp] theorem State.returns_bst (r : Ret) : (s.returns r).bst = s.bst := rfl
@[simp] theorem State.returns_timing (r : Ret) : (s.returns r).timing = s.timing := rfl
@[simp] theorem State.returns_irqEn (r : Ret) : (s.returns r).irqEn = s.irqEn := rfl
@[simp] theorem State.returns_notifArmed (r : Ret) : (s.returns r).notifArmed = s.notifArmed := rfl
@[simp] theorem State.returns_txInflight (r : Ret) : (s.returns r).txInflight = s.txInflight := rfl
@[simp] theorem State.returns_notif (r : Ret) : (s.returns r).notif = s.notif := rfl
@[simp] theorem State.returns_bridge (r : Ret) : (s.returns r).bridge = s.bridge := rfl
@[simp] theorem State.returns_cmdctx (r : Ret) : (s.returns r).cmdctx = s.cmdctx := rfl
@[simp] theorem State.returns_egq (r : Ret) : (s.returns r).egq = s.egq := rfl
@[simp] theorem State.returns_buf (r : Ret) : (s.returns r).buf = s.buf := rfl
@[simp] theorem State.returns_inited (r : Ret) : (s.returns r).inited = s.inited := rfl
@[simp] theorem State.returns_cfg (r : Ret) : (s.returns r).cfg = s.cfg := rfl
@[simp] theorem State.returns_env (r : Ret) : (s.returns r).env = s.env := rfl
@[simp] theorem State.returns_script (r : Ret) : (s.returns r).script = s.script := rfl
@[simp] theorem State.returns_tick (r : Ret) : (s.returns r).tick = s.tick := rfl
@[simp] theorem State.returns_ret (r : Ret) : (s.returns r).ret = r := rfl
@[simp] theorem State.returns_raised (r : Ret) : (s.returns r).raised = s.raised := rfl
@[simp] theorem State.returns_outputs (r : Ret) : (s.returns r).outputs = s.outputs := rfl

/-! `State.advanceRd` -/
@[simp] theorem State.advanceRd_ring (n : Nat) : (s.advanceRd n).ring = s.ring := rfl
@[simp] theorem State.advanceRd_wr (n : Nat) : (s.advanceRd n).wr = s.wr := rfl
@[simp] theorem State.advanceRd_rd (n : Nat) : (s.advanceRd n).rd = (s.rd + n) % s.cfg.cap := rfl
@[simp] theorem State.advanceRd_cmd (n : Nat) : (s.advanceRd n).cmd = s.cmd := rfl
@[simp] theorem State.advanceRd_cmdLen (n : Nat) : (s.advanceRd n).cmdLen = s.cmdLen := rfl
@[simp] theorem State.advanceRd_seq (n : Nat) : (s.advanceRd n).seq = s.seq := rfl
@[simp] theorem State.advanceRd_lock (n : Nat) : (s.advanceRd n).lock = s.lock := rfl
@[simp] theorem State.advanceRd_txq (n : Nat) : (s.advanceRd n).txq = s.txq := rfl
@[simp] theorem State.advanceRd_rxq (n : Nat) : (s.advanceRd n).rxq = s.rxq := rfl
@[simp] theorem State.advanceRd_bst (n : Nat) : (s.advanceRd n).bst = s.bst := rfl
@[simp] theorem State.advanceRd_timing (n : Nat) : (s.advanceRd n).timing = s.timing := rfl
@[simp] theorem State.advanceRd_irqEn (n : Nat) : (s.advanceRd n).irqEn = s.irqEn := rfl
@[simp] theorem State.advanceRd_notifArmed (n : Nat) : (s.advanceRd n).notifArmed = s.notifArmed := rfl
@[simp] theorem State.advanceRd_txInflight (n : Nat) : (s.advanceRd n).txInflight = s.txInflight := rfl
@[simp] theorem State.advanceRd_notif (n : Nat) : (s.advanceRd n).notif = s.notif := rfl
@[simp] theorem State.advanceRd_bridge (n : Nat) : (s.advanceRd n).bridge = s.bridge := rfl
@[simp] theorem State.advanceRd_cmdctx (n : Nat) : (s.advanceRd n).cmdctx = s.cmdctx := rfl
@[simp] theorem State.advanceRd_egq (n : Nat) : (s.advanceRd n).egq = s.egq := rfl
@[simp] theorem State.advanceRd_buf (n : Nat) : (s.advanceRd n).buf = s.buf := rfl
@[simp] theorem State.advanceRd_inited (n : Nat) : (s.advanceRd n).inited = s.inited := rfl
@[simp] theorem State.advanceRd_cfg (n : Nat) : (s.advanceRd n).cfg = s.cfg := rfl
@[simp] theorem State.advanceRd_env (n : Nat) : (s.advanceRd n).env = s.env := rfl
@[simp] theorem State.advanceRd_script (n : Nat) : (s.advanceRd n).script = s.script := rfl
@[simp] theorem State.advanceRd_tick (n : Nat) : (s.advanceRd n).tick = s.tick := rfl
@[simp] theorem State.advanceRd_ret (n : Nat) : (s.advanceRd n).ret = s.ret := rfl
@[simp] theorem State.advanceRd_raised (n : Nat) : (s.advanceRd n).raised = s.raised := rfl
@[simp] theorem State.advanceRd_outputs (n : Nat) : (s.advanceRd n).outputs = s.outputs := rfl

/-! `State.appendRing` -/
@[simp] theorem State.appendRing_ring (b : Byte) : (s.appendRing b).ring = s.ring.write s.wr b := rfl
@[simp] theorem State.appendRing_wr (b : Byte) : (s.appendRing b).wr = (s.wr + 1) % s.cfg.cap := rfl
@[simp] theorem State.appendRing_rd (b : Byte) : (s.appendRing b).rd = s.rd := rfl
@[simp] theorem State.appendRing_cmd (b : Byte) : (s.appendRing b).cmd = s.cmd := rfl
@[simp] theorem State.appendRing_cmdLen (b : Byte) : (s.appendRing b).cmdLen = s.cmdLen := rfl
@[simp] theorem State.appendRing_seq (b : Byte) : (s.appendRing b).seq = s.seq := rfl
@[simp] theorem State.appendRing_lock (b : Byte) : (s.appendRing b).lock = s.lock := rfl
@[simp] theorem State.appendRing_txq (b : Byte) : (s.appendRing b).txq = s.txq := rfl
@[simp] theorem State.appendRing_rxq (b : Byte) : (s.appendRing b).rxq = s.rxq := rfl
@[simp] theorem State.appendRing_bst (b : Byte) : (s.appendRing b).bst = s.bst := rfl
@[simp] theorem State.appendRing_timing (b : Byte) : (s.appendRing b).timing = s.timing := rfl
@[simp] theorem State.appendRing_irqEn (b : Byte) : (s.appendRing b).irqEn = s.irqEn := rfl
@[simp] theorem State.appendRing_notifArmed (b : Byte) : (s.appendRing b).notifArmed = s.notifArmed := rfl
@[simp] theorem State.appendRing_txInflight (b : Byte) : (s.appendRing b).txInflight = s.txInflight := rfl
@[simp] theorem State.appendRing_notif (b : Byte) : (s.appendRing b).notif = s.notif := rfl
@[simp] theorem State.appendRing_bridge (b : Byte) : (s.appendRing b).bridge = s.bridge := rfl
@[simp] theorem State.appendRing_cmdctx (b : Byte) : (s.appendRing b).cmdctx = s.cmdctx := rfl
@[simp] theorem State.appendRing_egq (b : Byte) : (s.appendRing b).egq = s.egq := rfl
@[simp] theorem State.appendRing_buf (b : Byte) : (s.appendRing b).buf = s.buf := rfl
@[simp] theorem State.appendRing_inited (b : Byte) : (s.appendRing b).inited = s.inited := rfl
@[simp] theorem State.appendRing_cfg (b : Byte) : (s.appendRing b).cfg = s.cfg := rfl
@[simp] theorem State.appendRing_env (b : Byte) : (s.appendRing b).env = s.env := rfl
@[simp] theorem State.appendRing_script (b : Byte) : (s.appendRing b).script = s.script := rfl
@[simp] theorem State.appendRing_tick (b : Byte) : (s.appendRing b).tick = s.tick := rfl
@[simp] theorem State.appendRing_ret (b : Byte) : (s.appendRing b).ret = s.ret := rfl
@[simp] theorem State.appendRing_raised (b : Byte) : (s.appendRing b).raised = s.raised := rfl
@[simp] theorem State.appendRing_outputs (b : Byte) : (s.appendRing b).outputs = s.outputs := rfl

/-! `State.signalTxReady` -/
@[simp] theorem State.signalTxReady_ring : (s.signalTxReady).ring = s.ring := rfl
@[simp] theorem State.signalTxReady_wr : (s.signalTxReady).wr = s.wr := rfl
@[simp] theorem State.signalTxReady_rd : (s.signalTxReady).rd = s.rd := rfl
@[simp] theorem State.signalTxReady_cmd : (s.signalTxReady).cmd = s.cmd := rfl
@[simp] theorem State.signalTxReady_cmdLen : (s.signalTxReady).cmdLen = s.cmdLen := rfl
@[simp] theorem State.signalTxReady_seq : (s.signalTxReady).seq = s.seq := rfl
@[simp] theorem State.signalTxReady_lock : (s.signalTxReady).lock = s.lock := rfl
@[simp] theorem State.signalTxReady_txq : (s.signalTxReady).txq = s.txq := rfl
@[simp] theorem State.signalTxReady_rxq : (s.signalTxReady).rxq = s.rxq := rfl
@[simp] theorem State.signalTxReady_bst : (s.signalTxReady).bst = s.bst := rfl
@[simp] theorem State.signalTxReady_timing : (s.signalTxReady).timing = s.timing := rfl
@[simp] theorem State.signalTxReady_irqEn : (s.signalTxReady).irqEn = s.irqEn := rfl
@[simp] theorem State.signalTxReady_notifArmed : (s.signalTxReady).notifArmed = s.notifArmed := rfl
@[simp] theorem State.signalTxReady_txInflight : (s.signalTxReady).txInflight = s.txInflight := rfl
@[simp] theorem State.signalTxReady_notif : (s.signalTxReady).notif = { s.notif with txReady := true } := rfl
@[simp] theorem State.signalTxReady_bridge : (s.signalTxReady).bridge = s.bridge := rfl
@[simp] theorem State.signalTxReady_cmdctx : (s.signalTxReady).cmdctx = s.cmdctx := rfl
@[simp] theorem State.signalTxReady_egq : (s.signalTxReady).egq = s.egq := rfl
@[simp] theorem State.signalTxReady_buf : (s.signalTxReady).buf = s.buf := rfl
@[simp] theorem State.signalTxReady_inited : (s.signalTxReady).inited = s.inited := rfl
@[simp] theorem State.signalTxReady_cfg : (s.signalTxReady).cfg = s.cfg := rfl
@[simp] theorem State.signalTxReady_env : (s.signalTxReady).env = s.env := rfl
@[simp] theorem State.signalTxReady_script : (s.signalTxReady).script = s.script := rfl
@[simp] theorem State.signalTxReady_tick : (s.signalTxReady).tick = s.tick := rfl
@[simp] theorem State.signalTxReady_ret : (s.signalTxReady).ret = s.ret := rfl
@[simp] theorem State.signalTxReady_raised : (s.signalTxReady).raised = s.raised := rfl
@[simp] theorem State.signalTxReady_outputs : (s.signalTxReady).outputs = s.outputs := rfl

/-! `State.signalRxAvail` -/
@[simp] theorem State.signalRxAvail_ring : (s.signalRxAvail).ring = s.ring := rfl
@[simp] theorem State.signalRxAvail_wr : (s.signalRxAvail).wr = s.wr := rfl
@[simp] theorem State.signalRxAvail_rd : (s.signalRxAvail).rd = s.rd := rfl
@[simp] theorem State.signalRxAvail_cmd : (s.signalRxAvail).cmd = s.cmd := rfl
@[simp] theorem State.signalRxAvail_cmdLen : (s.signalRxAvail).cmdLen = s.cmdLen := rfl
@[simp] theorem State.signalRxAvail_seq : (s.signalRxAvail).seq = s.seq := rfl
@[simp] theorem State.signalRxAvail_lock : (s.signalRxAvail).lock = s.lock := rfl
@[simp] theorem State.signalRxAvail_txq : (s.signalRxAvail).txq = s.txq := rfl
@[simp] theorem State.signalRxAvail_rxq : (s.signalRxAvail).rxq = s.rxq := rfl
@[simp] theorem State.signalRxAvail_bst : (s.signalRxAvail).bst = s.bst := rfl
@[simp] theorem State.signalRxAvail_timing : (s.signalRxAvail).timing = s.timing := rfl
@[simp] theorem State.signalRxAvail_irqEn : (s.signalRxAvail).irqEn = s.irqEn := rfl
@[simp] theorem State.signalRxAvail_notifArmed : (s.signalRxAvail).notifArmed = s.notifArmed := rfl
@[simp] theorem State.signalRxAvail_txInflight : (s.signalRxAvail).txInflight = s.txInflight := rfl
@[simp] theorem State.signalRxAvail_notif : (s.signalRxAvail).notif = { s.notif with rxAvail := true } := rfl
@[simp] theorem State.signalRxAvail_bridge : (s.signalRxAvail).bridge = s.bridge := rfl
@[simp] theorem State.signalRxAvail_cmdctx : (s.signalRxAvail).cmdctx = s.cmdctx := rfl
@[simp] theorem State.signalRxAvail_egq : (s.signalRxAvail).egq = s.egq := rfl
@[simp] theorem State.signalRxAvail_buf : (s.signalRxAvail).buf = s.buf := rfl
@[simp] theorem State.signalRxAvail_inited : (s.signalRxAvail).inited = s.inited := rfl
@[simp] theorem State.signalRxAvail_cfg : (s.signalRxAvail).cfg = s.cfg := rfl
@[simp] theorem State.signalRxAvail_env : (s.signalRxAvail).env = s.env := rfl
@[simp] theorem State.signalRxAvail_script : (s.signalRxAvail).script = s.script := rfl
@[simp] theorem State.signalRxAvail_tick : (s.signalRxAvail).tick = s.tick := rfl
@[simp] theorem State.signalRxAvail_ret : (s.signalRxAvail).ret = s.ret := rfl
@[simp] theorem State.signalRxAvail_raised : (s.signalRxAvail).raised = s.raised := rfl
@[simp] theorem State.signalRxAvail_outputs : (s.signalRxAvail).outputs = s.outputs := rfl

/-! `State.clearNotif` -/
@[simp] theorem State.clearNotif_ring : (s.clearNotif).ring = s.ring := rfl
@[simp] theorem State.clearNotif_wr : (s.clearNotif).wr = s.wr := rfl
@[simp] theorem State.clearNotif_rd : (s.clearNotif).rd = s.rd := rfl
@[simp] theorem State.clearNotif_cmd : (s.clearNotif).cmd = s.cmd := rfl
@[simp] theorem State.clearNotif_cmdLen : (s.clearNotif).cmdLen = s.cmdLen := rfl
@[simp] theorem State.clearNotif_seq : (s.clearNotif).seq = s.seq := rfl
@[simp] theorem State.clearNotif_lock : (s.clearNotif).lock = s.lock := rfl
@[simp] theorem State.clearNotif_txq : (s.clearNotif).txq = s.txq := rfl
@[simp] theorem State.clearNotif_rxq : (s.clearNotif).rxq = s.rxq := rfl
@[simp] theorem State.clearNotif_bst : (s.clearNotif).bst = s.bst := rfl
@[simp] theorem State.clearNotif_timing : (s.clearNotif).timing = s.timing := rfl
@[simp] theorem State.clearNotif_irqEn : (s.clearNotif).irqEn = s.irqEn := rfl
@[simp] theorem State.clearNotif_notifArmed : (s.clearNotif).notifArmed = s.notifArmed := rfl
@[simp] theorem State.clearNotif_txInflight : (s.clearNotif).txInflight = s.txInflight := rfl
@[simp] theorem State.clearNotif_notif : (s.clearNotif).notif = Notif.clear := rfl
@[simp] theorem State.clearNotif_bridge : (s.clearNotif).bridge = s.bridge := rfl
@[simp] theorem State.clearNotif_cmdctx : (s.clearNotif).cmdctx = s.cmdctx := rfl
@[simp] theorem State.clearNotif_egq : (s.clearNotif).egq = s.egq := rfl
@[simp] theorem State.clearNotif_buf : (s.clearNotif).buf = s.buf := rfl
@[simp] theorem State.clearNotif_inited : (s.clearNotif).inited = s.inited := rfl
@[simp] theorem State.clearNotif_cfg : (s.clearNotif).cfg = s.cfg := rfl
@[simp] theorem State.clearNotif_env : (s.clearNotif).env = s.env := rfl
@[simp] theorem State.clearNotif_script : (s.clearNotif).script = s.script := rfl
@[simp] theorem State.clearNotif_tick : (s.clearNotif).tick = s.tick := rfl
@[simp] theorem State.clearNotif_ret : (s.clearNotif).ret = s.ret := rfl
@[simp] theorem State.clearNotif_raised : (s.clearNotif).raised = s.raised := rfl
@[simp] theorem State.clearNotif_outputs : (s.clearNotif).outputs = s.outputs := rfl

/-! `State.setInflight` -/
@[simp] theorem State.setInflight_ring (b : Bool) : (s.setInflight b).ring = s.ring := rfl
@[simp] theorem State.setInflight_wr (b : Bool) : (s.setInflight b).wr = s.wr := rfl
@[simp] theorem State.setInflight_rd (b : Bool) : (s.setInflight b).rd = s.rd := rfl
@[simp] theorem State.setInflight_cmd (b : Bool) : (s.setInflight b).cmd = s.cmd := rfl
@[simp] theorem State.setInflight_cmdLen (b : Bool) : (s.setInflight b).cmdLen = s.cmdLen := rfl
@[simp] theorem State.setInflight_seq (b : Bool) : (s.setInflight b).seq = s.seq := rfl
@[simp] theorem State.setInflight_lock (b : Bool) : (s.setInflight b).lock = s.lock := rfl
@[simp] theorem State.setInflight_txq (b : Bool) : (s.setInflight b).txq = s.txq := rfl
@[simp] theorem State.setInflight_rxq (b : Bool) : (s.setInflight b).rxq = s.rxq := rfl
@[simp] theorem State.setInflight_bst (b : Bool) : (s.setInflight b).bst = s.bst := rfl
@[simp] theorem State.setInflight_timing (b : Bool) : (s.setInflight b).timing = s.timing := rfl
@[simp] theorem State.setInflight_irqEn (b : Bool) : (s.setInflight b).irqEn = s.irqEn := rfl
@[simp] theorem State.setInflight_notifArmed (b : Bool) : (s.setInflight b).notifArmed = s.notifArmed := rfl
@[simp] theorem State.setInflight_txInflight (b : Bool) : (s.setInflight b).txInflight = b := rfl
@[simp] theorem State.setInflight_notif (b : Bool) : (s.setInflight b).notif = s.notif := rfl
@[simp] theorem State.setInflight_bridge (b : Bool) : (s.setInflight b).bridge = s.bridge := rfl
@[simp] theorem State.setInflight_cmdctx (b : Bool) : (s.setInflight b).cmdctx = s.cmdctx := rfl
@[simp] theorem State.setInflight_egq (b : Bool) : (s.setInflight b).egq = s.egq := rfl
@[simp] theorem State.setInflight_buf (b : Bool) : (s.setInflight b).buf = s.buf := rfl
@[simp] theorem State.setInflight_inited (b : Bool) : (s.setInflight b).inited = s.inited := rfl
@[simp] theorem State.setInflight_cfg (b : Bool) : (s.setInflight b).cfg = s.cfg := rfl
@[simp] theorem State.setInflight_env (b : Bool) : (s.setInflight b).env = s.env := rfl
@[simp] theorem State.setInflight_script (b : Bool) : (s.setInflight b).script = s.script := rfl
@[simp] theorem State.setInflight_tick (b : Bool) : (s.setInflight b).tick = s.tick := rfl
@[simp] theorem State.setInflight_ret (b : Bool) : (s.setInflight b).ret = s.ret := rfl
@[simp] theorem State.setInflight_raised (b : Bool) : (s.setInflight b).raised = s.raised := rfl
@[simp] theorem State.setInflight_outputs (b : Bool) : (s.setInflight b).outputs = s.outputs := rfl

/-! `State.setIrqEn` -/
@[simp] theorem State.setIrqEn_ring (b : Bool) : (s.setIrqEn b).ring = s.ring := rfl
@[simp] theorem State.setIrqEn_wr (b : Bool) : (s.setIrqEn b).wr = s.wr := rfl
@[simp] theorem State.setIrqEn_rd (b : Bool) : (s.setIrqEn b).rd = s.rd := rfl
@[simp] theorem State.setIrqEn_cmd (b : Bool) : (s.setIrqEn b).cmd = s.cmd := rfl
@[simp] theorem State.setIrqEn_cmdLen (b : Bool) : (s.setIrqEn b).cmdLen = s.cmdLen := rfl
@[simp] theorem State.setIrqEn_seq (b : Bool) : (s.setIrqEn b).seq = s.seq := rfl
@[simp] theorem State.setIrqEn_lock (b : Bool) : (s.setIrqEn b).lock = s.lock := rfl
@[simp] theorem State.setIrqEn_txq (b : Bool) : (s.setIrqEn b).txq = s.txq := rfl
@[simp] theorem State.setIrqEn_rxq (b : Bool) : (s.setIrqEn b).rxq = s.rxq := rfl
@[simp] theorem State.setIrqEn_bst (b : Bool) : (s.setIrqEn b).bst = s.bst := rfl
@[simp] theorem State.setIrqEn_timing (b : Bool) : (s.setIrqEn b).timing = s.timing := rfl
@[simp] theorem State.setIrqEn_irqEn (b : Bool) : (s.setIrqEn b).irqEn = b := rfl
@[simp] theorem State.setIrqEn_notifArmed (b : Bool) : (s.setIrqEn b).notifArmed = s.notifArmed := rfl
@[simp] theorem State.setIrqEn_txInflight (b : Bool) : (s.setIrqEn b).txInflight = s.txInflight := rfl
@[simp] theorem State.setIrqEn_notif (b : Bool) : (s.setIrqEn b).notif = s.notif := rfl
@[simp] theorem State.setIrqEn_bridge (b : Bool) : (s.setIrqEn b).bridge = s.bridge := rfl
@[simp] theorem State.setIrqEn_cmdctx (b : Bool) : (s.setIrqEn b).cmdctx = s.cmdctx := rfl
@[simp] theorem State.setIrqEn_egq (b : Bool) : (s.setIrqEn b).egq = s.egq := rfl
@[simp] theorem State.setIrqEn_buf (b : Bool) : (s.setIrqEn b).buf = s.buf := rfl
@[simp] theorem State.setIrqEn_inited (b : Bool) : (s.setIrqEn b).inited = s.inited := rfl
@[simp] theorem State.setIrqEn_cfg (b : Bool) : (s.setIrqEn b).cfg = s.cfg := rfl
@[simp] theorem State.setIrqEn_env (b : Bool) : (s.setIrqEn b).env = s.env := rfl
@[simp] theorem State.setIrqEn_script (b : Bool) : (s.setIrqEn b).script = s.script := rfl
@[simp] theorem State.setIrqEn_tick (b : Bool) : (s.setIrqEn b).tick = s.tick := rfl
@[simp] theorem State.setIrqEn_ret (b : Bool) : (s.setIrqEn b).ret = s.ret := rfl
@[simp] theorem State.setIrqEn_raised (b : Bool) : (s.setIrqEn b).raised = s.raised := rfl
@[simp] theorem State.setIrqEn_outputs (b : Bool) : (s.setIrqEn b).outputs = s.outputs := rfl

/-! `State.setArmed` -/
@[simp] theorem State.setArmed_ring (b : Bool) : (s.setArmed b).ring = s.ring := rfl
@[simp] theorem State.setArmed_wr (b : Bool) : (s.setArmed b).wr = s.wr := rfl
@[simp] theorem State.setArmed_rd (b : Bool) : (s.setArmed b).rd = s.rd := rfl
@[simp] theorem State.setArmed_cmd (b : Bool) : (s.setArmed b).cmd = s.cmd := rfl
@[simp] theorem State.setArmed_cmdLen (b : Bool) : (s.setArmed b).cmdLen = s.cmdLen := rfl
@[simp] theorem State.setArmed_seq (b : Bool) : (s.setArmed b).seq = s.seq := rfl
@[simp] theorem State.setArmed_lock (b : Bool) : (s.setArmed b).lock = s.lock := rfl
@[simp] theorem State.setArmed_txq (b : Bool) : (s.setArmed b).txq = s.txq := rfl
@[simp] theorem State.setArmed_rxq (b : Bool) : (s.setArmed b).rxq = s.rxq := rfl
@[simp] theorem State.setArmed_bst (b : Bool) : (s.setArmed b).bst = s.bst := rfl
@[simp] theorem State.setArmed_timing (b : Bool) : (s.setArmed b).timing = s.timing := rfl
@[simp] theorem State.setArmed_irqEn (b : Bool) : (s.setArmed b).irqEn = s.irqEn := rfl
@[simp] theorem State.setArmed_notifArmed (b : Bool) : (s.setArmed b).notifArmed = b := rfl
@[simp] theorem State.setArmed_txInflight (b : Bool) : (s.setArmed b).txInflight = s.txInflight := rfl
@[simp] theorem State.setArmed_notif (b : Bool) : (s.setArmed b).notif = s.notif := rfl
@[simp] theorem State.setArmed_bridge (b : Bool) : (s.setArmed b).bridge = s.bridge := rfl
@[simp] theorem State.setArmed_cmdctx (b : Bool) : (s.setArmed b).cmdctx = s.cmdctx := rfl
@[simp] theorem State.setArmed_egq (b : Bool) : (s.setArmed b).egq = s.egq := rfl
@[simp] theorem State.setArmed_buf (b : Bool) : (s.setArmed b).buf = s.buf := rfl
@[simp] theorem State.setArmed_inited (b : Bool) : (s.setArmed b).inited = s.inited := rfl
@[simp] theorem State.setArmed_cfg (b : Bool) : (s.setArmed b).cfg = s.cfg := rfl
@[simp] theorem State.setArmed_env (b : Bool) : (s.setArmed b).env = s.env := rfl
@[simp] theorem State.setArmed_script (b : Bool) : (s.setArmed b).script = s.script := rfl
@[simp] theorem State.setArmed_tick (b : Bool) : (s.setArmed b).tick = s.tick := rfl
@[simp] theorem State.setArmed_ret (b : Bool) : (s.setArmed b).ret = s.ret := rfl
@[simp] theorem State.setArmed_raised (b : Bool) : (s.setArmed b).raised = s.raised := rfl
@[simp] theorem State.setArmed_outputs (b : Bool) : (s.setArmed b).outputs = s.outputs := rfl

/-! `State.pushFrame` -/
@[simp] theorem State.pushFrame_ring (f : CmdFrame) : (s.pushFrame f).ring = s.ring := rfl
@[simp] theorem State.pushFrame_wr (f : CmdFrame) : (s.pushFrame f).wr = s.wr := rfl
@[simp] theorem State.pushFrame_rd (f : CmdFrame) : (s.pushFrame f).rd = s.rd := rfl
@[simp] theorem State.pushFrame_cmd (f : CmdFrame) : (s.pushFrame f).cmd = s.cmd := rfl
@[simp] theorem State.pushFrame_cmdLen (f : CmdFrame) : (s.pushFrame f).cmdLen = s.cmdLen := rfl
@[simp] theorem State.pushFrame_seq (f : CmdFrame) : (s.pushFrame f).seq = s.seq := rfl
@[simp] theorem State.pushFrame_lock (f : CmdFrame) : (s.pushFrame f).lock = s.lock := rfl
@[simp] theorem State.pushFrame_txq (f : CmdFrame) : (s.pushFrame f).txq = s.txq := rfl
@[simp] theorem State.pushFrame_rxq (f : CmdFrame) : (s.pushFrame f).rxq = s.rxq := rfl
@[simp] theorem State.pushFrame_bst (f : CmdFrame) : (s.pushFrame f).bst = s.bst := rfl
@[simp] theorem State.pushFrame_timing (f : CmdFrame) : (s.pushFrame f).timing = s.timing := rfl
@[simp] theorem State.pushFrame_irqEn (f : CmdFrame) : (s.pushFrame f).irqEn = s.irqEn := rfl
@[simp] theorem State.pushFrame_notifArmed (f : CmdFrame) : (s.pushFrame f).notifArmed = s.notifArmed := rfl
@[simp] theorem State.pushFrame_txInflight (f : CmdFrame) : (s.pushFrame f).txInflight = s.txInflight := rfl
@[simp] theorem State.pushFrame_notif (f : CmdFrame) : (s.pushFrame f).notif = s.notif := rfl
@[simp] theorem State.pushFrame_bridge (f : CmdFrame) : (s.pushFrame f).bridge = s.bridge := rfl
@[simp] theorem State.pushFrame_cmdctx (f : CmdFrame) : (s.pushFrame f).cmdctx = f :: s.cmdctx := rfl
@[simp] theorem State.pushFrame_egq (f : CmdFrame) : (s.pushFrame f).egq = s.egq := rfl
@[simp] theorem State.pushFrame_buf (f : CmdFrame) : (s.pushFrame f).buf = s.buf := rfl
@[simp] theorem State.pushFrame_inited (f : CmdFrame) : (s.pushFrame f).inited = s.inited := rfl
@[simp] theorem State.pushFrame_cfg (f : CmdFrame) : (s.pushFrame f).cfg = s.cfg := rfl
@[simp] theorem State.pushFrame_env (f : CmdFrame) : (s.pushFrame f).env = s.env := rfl
@[simp] theorem State.pushFrame_script (f : CmdFrame) : (s.pushFrame f).script = s.script := rfl
@[simp] theorem State.pushFrame_tick (f : CmdFrame) : (s.pushFrame f).tick = s.tick := rfl
@[simp] theorem State.pushFrame_ret (f : CmdFrame) : (s.pushFrame f).ret = s.ret := rfl
@[simp] theorem State.pushFrame_raised (f : CmdFrame) : (s.pushFrame f).raised = s.raised := rfl
@[simp] theorem State.pushFrame_outputs (f : CmdFrame) : (s.pushFrame f).outputs = s.outputs := rfl

/-! `State.nextSeq` -/
@[simp] theorem State.nextSeq_ring : (s.nextSeq).ring = s.ring := rfl
@[simp] theorem State.nextSeq_wr : (s.nextSeq).wr = s.wr := rfl
@[simp] theorem State.nextSeq_rd : (s.nextSeq).rd = s.rd := rfl
@[simp] theorem State.nextSeq_cmd : (s.nextSeq).cmd = s.cmd := rfl
@[simp] theorem State.nextSeq_cmdLen : (s.nextSeq).cmdLen = s.cmdLen := rfl
@[simp] theorem State.nextSeq_seq : (s.nextSeq).seq = (s.seq + 1) % s.cfg.seqMod := rfl
@[simp] theorem State.nextSeq_lock : (s.nextSeq).lock = s.lock := rfl
@[simp] theorem State.nextSeq_txq : (s.nextSeq).txq = s.txq := rfl
@[simp] theorem State.nextSeq_rxq : (s.nextSeq).rxq = s.rxq := rfl
@[simp] theorem State.nextSeq_bst : (s.nextSeq).bst = s.bst := rfl
@[simp] theorem State.nextSeq_timing : (s.nextSeq).timing = s.timing := rfl
@[simp] theorem State.nextSeq_irqEn : (s.nextSeq).irqEn = s.irqEn := rfl
@[simp] theorem State.nextSeq_notifArmed : (s.nextSeq).notifArmed = s.notifArmed := rfl
@[simp] theorem State.nextSeq_txInflight : (s.nextSeq).txInflight = s.txInflight := rfl
@[simp] theorem State.nextSeq_notif : (s.nextSeq).notif = s.notif := rfl
@[simp] theorem State.nextSeq_bridge : (s.nextSeq).bridge = s.bridge := rfl
@[simp] theorem State.nextSeq_cmdctx : (s.nextSeq).cmdctx = s.cmdctx := rfl
@[simp] theorem State.nextSeq_egq : (s.nextSeq).egq = s.egq := rfl
@[simp] theorem State.nextSeq_buf : (s.nextSeq).buf = s.buf := rfl
@[simp] theorem State.nextSeq_inited : (s.nextSeq).inited = s.inited := rfl
@[simp] theorem State.nextSeq_cfg : (s.nextSeq).cfg = s.cfg := rfl
@[simp] theorem State.nextSeq_env : (s.nextSeq).env = s.env := rfl
@[simp] theorem State.nextSeq_script : (s.nextSeq).script = s.script := rfl
@[simp] theorem State.nextSeq_tick : (s.nextSeq).tick = s.tick := rfl
@[simp] theorem State.nextSeq_ret : (s.nextSeq).ret = s.ret := rfl
@[simp] theorem State.nextSeq_raised : (s.nextSeq).raised = s.raised := rfl
@[simp] theorem State.nextSeq_outputs : (s.nextSeq).outputs = s.outputs := rfl

/-! `formatInto` -/
@[simp] theorem formatInto_ring (buf : List Byte) (n : Nat) : (formatInto buf n s).ring = s.ring := rfl
@[simp] theorem formatInto_wr (buf : List Byte) (n : Nat) : (formatInto buf n s).wr = s.wr := rfl
@[simp] theorem formatInto_rd (buf : List Byte) (n : Nat) : (formatInto buf n s).rd = s.rd := rfl
@[simp] theorem formatInto_cmd (buf : List Byte) (n : Nat) : (formatInto buf n s).cmd = s.cmd := rfl
@[simp] theorem formatInto_cmdLen (buf : List Byte) (n : Nat) : (formatInto buf n s).cmdLen = s.cmdLen := rfl
@[simp] theorem formatInto_lock (buf : List Byte) (n : Nat) : (formatInto buf n s).lock = s.lock := rfl
@[simp] theorem formatInto_txq (buf : List Byte) (n : Nat) : (formatInto buf n s).txq = s.txq := rfl
@[simp] theorem formatInto_rxq (buf : List Byte) (n : Nat) : (formatInto buf n s).rxq = s.rxq := rfl
@[simp] theorem formatInto_bst (buf : List Byte) (n : Nat) : (formatInto buf n s).bst = s.bst := rfl
@[simp] theorem formatInto_timing (buf : List Byte) (n : Nat) : (formatInto buf n s).timing = s.timing := rfl
@[simp] theorem formatInto_irqEn (buf : List Byte) (n : Nat) : (formatInto buf n s).irqEn = s.irqEn := rfl
@[simp] theorem formatInto_notifArmed (buf : List Byte) (n : Nat) : (formatInto buf n s).notifArmed = s.notifArmed := rfl
@[simp] theorem formatInto_txInflight (buf : List Byte) (n : Nat) : (formatInto buf n s).txInflight = s.txInflight := rfl
@[simp] theorem formatInto_notif (buf : List Byte) (n : Nat) : (formatInto buf n s).notif = s.notif := rfl
@[simp] theorem formatInto_bridge (buf : List Byte) (n : Nat) : (formatInto buf n s).bridge = s.bridge := rfl
@[simp] theorem formatInto_cmdctx (buf : List Byte) (n : Nat) : (formatInto buf n s).cmdctx = s.cmdctx := rfl
@[simp] theorem formatInto_egq (buf : List Byte) (n : Nat) : (formatInto buf n s).egq = s.egq := rfl
@[simp] theorem formatInto_inited (buf : List Byte) (n : Nat) : (formatInto buf n s).inited = s.inited := rfl
@[simp] theorem formatInto_cfg (buf : List Byte) (n : Nat) : (formatInto buf n s).cfg = s.cfg := rfl
@[simp] theorem formatInto_env (buf : List Byte) (n : Nat) : (formatInto buf n s).env = s.env := rfl
@[simp] theorem formatInto_script (buf : List Byte) (n : Nat) : (formatInto buf n s).script = s.script := rfl
@[simp] theorem formatInto_tick (buf : List Byte) (n : Nat) : (formatInto buf n s).tick = s.tick := rfl
@[simp] theorem formatInto_ret (buf : List Byte) (n : Nat) : (formatInto buf n s).ret = s.ret := rfl
@[simp] theorem formatInto_raised (buf : List Byte) (n : Nat) : (formatInto buf n s).raised = s.raised := rfl
@[simp] theorem formatInto_outputs (buf : List Byte) (n : Nat) : (formatInto buf n s).outputs = s.outputs := rfl
@[simp] theorem formatInto_buf (buf : List Byte) (n : Nat) : (formatInto buf n s).buf = formatBuffer s.cfg s.seq buf n := rfl
@[simp] theorem formatInto_seq (buf : List Byte) (n : Nat) : (formatInto buf n s).seq = (s.seq + 1) % s.cfg.seqMod := rfl

end Sys2Proof.Machine
end

