-- ==== Sys2Proof/Laws/Memory.lean ====
section
/-! SUPPORT. The byte spaces: a read after a write, other places kept, the canonical form kept, and the strings read from the linear and the circular space. -/

namespace Sys2Proof.Machine

theorem Memory.read_write_same (m : Memory) (i : Nat) (v : Byte) : (m.write i v).read i = some v := by
  induction m with
  | nil => simp [Memory.write, Memory.read]
  | cons x rest ih =>
    obtain ⟨a, b⟩ := x
    simp only [Memory.write]
    split
    · simp [Memory.read]
    · split
      · simp [Memory.read]
      · simp only [Memory.read]
        rw [if_neg ‹_›, if_neg ‹_›]
        exact ih

theorem Memory.read_write_ne (m : Memory) {i j : Nat} (v : Byte) (h : j ≠ i) : (m.write i v).read j = m.read j := by
  induction m with
  | nil => simp [Memory.write, Memory.read, Ne.symm h]
  | cons x rest ih =>
    obtain ⟨a, b⟩ := x
    simp only [Memory.write]
    split
    · simp only [Memory.read]
      rw [if_neg (Ne.symm h)]
      by_cases hj : j < i
      · rw [if_pos hj, if_neg (by omega), if_pos (by omega)]
      · rw [if_neg hj]
    · split
      · subst_vars; simp only [Memory.read]; rw [if_neg (Ne.symm h), if_neg (Ne.symm h)]
      · simp only [Memory.read, ih]

theorem Memory.mem_write {m : Memory} {i : Nat} {v : Byte} {x : Host.Cell} (h : x ∈ m.write i v) : x.1 = i ∨ x ∈ m := by
  induction m with
  | nil => simp [Memory.write] at h; simp [h]
  | cons y rest ih =>
    obtain ⟨a, b⟩ := y
    simp only [Memory.write] at h
    split at h
    · simp at h; rcases h with rfl | rfl | h <;> simp_all
    · split at h
      · simp at h; rcases h with rfl | h <;> simp_all
      · simp at h
        rcases h with rfl | h
        · simp
        · rcases ih h with h | h <;> simp [h]

/-- A write keeps the canonical form. -/
theorem Memory.write_wf {m : Memory} (i : Nat) (v : Byte) (h : m.wf) : (m.write i v).wf := by
  induction m with
  | nil => simp [Memory.write]
  | cons x rest ih =>
    obtain ⟨a, b⟩ := x
    simp only [Memory.wf, List.pairwise_cons] at h ih
    simp only [Memory.write]
    split
    · simp only [Memory.wf, List.pairwise_cons, List.mem_cons]
      refine ⟨?_, h⟩
      rintro y (rfl | hy)
      · assumption
      · have := h.1 y hy; omega
    · split
      · subst_vars; simpa [Memory.wf] using h
      · simp only [Memory.wf, List.pairwise_cons]
        refine ⟨fun y hy => ?_, ih h.2⟩
        rcases Memory.mem_write hy with hy | hy
        · rw [hy]; omega
        · exact h.1 y hy

theorem Memory.writeSeq_wf {m : Memory} (i : Nat) (vs : List Byte) (h : m.wf) : (m.writeSeq i vs).wf := by
  induction vs generalizing m i with
  | nil => exact h
  | cons v vs ih => exact ih _ (Memory.write_wf i v h)

theorem Memory.mem_writeSeq {m : Memory} {i : Nat} {vs : List Byte} {x : Host.Cell} (h : x ∈ m.writeSeq i vs) :
    x.1 < i + vs.length ∨ x ∈ m := by
  induction vs generalizing m i with
  | nil => exact .inr h
  | cons v vs ih =>
    rcases ih h with h | h
    · left; simp; omega
    · rcases Memory.mem_write h with h | h
      · left; simp; omega
      · exact .inr h

theorem Memory.read_writeSeq_of_lt (m : Memory) {i j : Nat} (vs : List Byte) (h : j < i) : (m.writeSeq i vs).read j = m.read j := by
  induction vs generalizing m i with
  | nil => rfl
  | cons v vs ih => simp only [Memory.writeSeq]; rw [ih _ (by omega), Memory.read_write_ne _ _ (by omega)]

/-- What is copied to a linear space is read back whole. -/
theorem Memory.readSeq_writeSeq (m : Memory) (i : Nat) (vs : List Byte) : (m.writeSeq i vs).readSeq i vs.length = some vs := by
  induction vs generalizing m i with
  | nil => rfl
  | cons v vs ih =>
    simp only [Memory.writeSeq, List.length_cons, Memory.readSeq]
    rw [Memory.read_writeSeq_of_lt _ _ (by omega), Memory.read_write_same, ih]

theorem Memory.readSeq_length {m : Memory} {i n : Nat} {bs : List Byte} (h : m.readSeq i n = some bs) : bs.length = n := by
  induction n generalizing i bs with
  | zero => simp [Memory.readSeq] at h; simp [← h]
  | succ n ih =>
    simp only [Memory.readSeq] at h
    split at h
    · rename_i b bs' _ h2
      cases h; simp [ih h2]
    · cases h

theorem Memory.readRing_length {m : Memory} {cap i n : Nat} {bs : List Byte} (h : m.readRing cap i n = some bs) : bs.length = n := by
  induction n generalizing i bs with
  | zero => simp [Memory.readRing] at h; simp [← h]
  | succ n ih =>
    simp only [Memory.readRing] at h
    split at h
    · rename_i b bs' _ h2
      cases h; simp [ih h2]
    · cases h

/-- A write outside the places read changes nothing of the string. -/
theorem Memory.readRing_write_of_ne (m : Memory) (cap i n w : Nat) (v : Byte) (h : ∀ k, k < n → (i + k) % cap ≠ w) :
    (m.write w v).readRing cap i n = m.readRing cap i n := by
  induction n generalizing i with
  | zero => rfl
  | succ n ih =>
    simp only [Memory.readRing]
    have h0 : i % cap ≠ w := h 0 (by omega)
    rw [Memory.read_write_ne _ _ h0, ih (i + 1) (fun k hk => by
      have := h (k + 1) (by omega); rwa [Nat.add_right_comm, Nat.add_assoc] )]

/-- The string read one longer ends in the next cell. -/
theorem Memory.readRing_snoc (m : Memory) (cap i n : Nat) :
    m.readRing cap i (n + 1) =
      match m.readRing cap i n, m.read ((i + n) % cap) with
      | some bs, some b => some (bs ++ [b])
      | _, _ => none := by
  induction n generalizing i with
  | zero => simp only [Memory.readRing, Nat.add_zero]; cases m.read (i % cap) <;> rfl
  | succ n ih =>
    rw [Memory.readRing, ih (i + 1), Memory.readRing]
    rw [show i + 1 + n = i + (n + 1) by omega]
    cases m.read (i % cap) <;> cases m.readRing cap (i + 1) n <;> cases m.read ((i + (n + 1)) % cap) <;> rfl

/-- The string read from `d` places further on. -/
theorem Memory.readRing_drop {m : Memory} {cap i n d : Nat} {bs : List Byte} (h : m.readRing cap i n = some bs) (hd : d ≤ n) :
    m.readRing cap (i + d) (n - d) = some (bs.drop d) := by
  induction d generalizing i n bs with
  | zero => simpa using h
  | succ d ih =>
    obtain ⟨n, rfl⟩ : ∃ k, n = k + 1 := ⟨n - 1, by omega⟩
    simp only [Memory.readRing] at h
    split at h
    · rename_i b bs' _ h2
      cases h
      have := ih h2 (by omega)
      simpa [Nat.add_assoc, Nat.add_comm 1 d] using this
    · cases h

theorem Memory.readRing_mod_start (m : Memory) (cap i n : Nat) : m.readRing cap (i % cap) n = m.readRing cap i n := by
  induction n generalizing i with
  | zero => rfl
  | succ n ih =>
    simp only [Memory.readRing, Nat.mod_mod]
    rw [← ih (i % cap + 1), ← ih (i + 1), Nat.mod_add_mod]

end Sys2Proof.Machine
end

