-- ==== Sys2Proof/Laws/Ring.lean ====
section
/-! SUPPORT. The ring's counts and its unread region: what appending a byte and advancing RD do to them. -/

namespace Sys2Proof.Machine

variable {s : State}

/-- The ring indices are in range (R23, R24). -/
abbrev State.ringOk (s : State) : Prop := s.rd < s.cfg.cap ∧ s.wr < s.cfg.cap

theorem State.used_eq (h : s.ringOk) : s.used = if s.rd ≤ s.wr then s.wr - s.rd else s.wr + s.cfg.cap - s.rd := by
  unfold State.used
  obtain ⟨h1, h2⟩ := h
  split
  · rw [show s.wr + s.cfg.cap - s.rd = (s.wr - s.rd) + s.cfg.cap by omega, Nat.add_mod_right, Nat.mod_eq_of_lt (by omega)]
  · rw [Nat.mod_eq_of_lt (by omega)]

theorem State.used_lt (h : s.ringOk) : s.used < s.cfg.cap := by
  unfold State.used; exact Nat.mod_lt _ (by have := h.1; omega)

theorem State.wr_eq (h : s.ringOk) : s.wr = (s.rd + s.used) % s.cfg.cap := by
  rw [State.used_eq h]
  obtain ⟨h1, h2⟩ := h
  split
  · rw [Nat.mod_eq_of_lt (by omega)]; omega
  · rw [show s.rd + (s.wr + s.cfg.cap - s.rd) = s.wr + s.cfg.cap by omega, Nat.add_mod_right, Nat.mod_eq_of_lt h2]

theorem State.unread_length {u : List Byte} (h : s.unread = some u) : u.length = s.used := Memory.readRing_length h

/-- The successor of an index. -/
theorem succ_mod {w cap : Nat} (h : w < cap) : (w + 1) % cap = if w + 1 = cap then 0 else w + 1 := by
  split
  · subst_vars; exact Nat.mod_self _
  · exact Nat.mod_eq_of_lt (by omega)

/-- The ring is full exactly when the next write index is RD (R141). -/
theorem State.full_iff (h : s.ringOk) : (s.wr + 1) % s.cfg.cap = s.rd ↔ s.used = s.cfg.cap - 1 := by
  rw [State.used_eq h, succ_mod h.2]
  obtain ⟨h1, h2⟩ := h
  split <;> split <;> omega

theorem State.appendRing_ringOk (b : Byte) (h : s.ringOk) : (s.appendRing b).ringOk :=
  ⟨h.1, Nat.mod_lt _ (by have := h.1; simpa using (by omega : 0 < s.cfg.cap))⟩

theorem State.advanceRd_ringOk (n : Nat) (h : s.ringOk) : (s.advanceRd n).ringOk :=
  ⟨Nat.mod_lt _ (by have := h.1; simpa using (by omega : 0 < s.cfg.cap)), h.2⟩

/-- The count of unread bytes after one more byte, over plain numbers. -/
theorem used_append {rd wr cap : Nat} (h1 : rd < cap) (h2 : wr < cap) (hn : (wr + 1) % cap ≠ rd) :
    ((wr + 1) % cap + cap - rd) % cap = (wr + cap - rd) % cap + 1 := by
  rw [succ_mod h2] at hn ⊢
  have e (x : Nat) (hx : x < cap) : (x + cap - rd) % cap = if rd ≤ x then x - rd else x + cap - rd := by
    split
    · rw [show x + cap - rd = (x - rd) + cap by omega, Nat.add_mod_right, Nat.mod_eq_of_lt (by omega)]
    · exact Nat.mod_eq_of_lt (by omega)
  by_cases hw : wr + 1 = cap
  · rw [if_pos hw] at hn ⊢
    rw [e 0 (by omega), e wr h2]; split <;> split <;> omega
  · rw [if_neg hw] at hn ⊢
    rw [e (wr + 1) (by omega), e wr h2]; split <;> split <;> omega

theorem State.appendRing_used (b : Byte) (h : s.ringOk) (hf : s.used ≠ s.cfg.cap - 1) : (s.appendRing b).used = s.used + 1 :=
  used_append h.1 h.2 fun he => hf ((State.full_iff h).1 he)

/-- The count of unread bytes after an advance of RD, over plain numbers. -/
theorem used_advance {rd wr cap n : Nat} (h1 : rd < cap) (h2 : wr < cap) (hn : n ≤ (wr + cap - rd) % cap) :
    (wr + cap - (rd + n) % cap) % cap = (wr + cap - rd) % cap - n := by
  have e (x : Nat) (hx : x < cap) : (wr + cap - x) % cap = if x ≤ wr then wr - x else wr + cap - x := by
    split
    · rw [show wr + cap - x = (wr - x) + cap by omega, Nat.add_mod_right, Nat.mod_eq_of_lt (by omega)]
    · exact Nat.mod_eq_of_lt (by omega)
  rw [e rd h1] at hn ⊢
  by_cases hc : cap ≤ rd + n
  · rw [show (rd + n) % cap = rd + n - cap by
      rw [Nat.mod_eq_sub_mod hc, Nat.mod_eq_of_lt (by split at hn <;> omega)], e _ (by split at hn <;> omega)]
    split at hn <;> split <;> omega
  · rw [Nat.mod_eq_of_lt (by omega : rd + n < cap), e _ (by omega)]
    split at hn <;> split <;> omega

theorem State.advanceRd_used (n : Nat) (h : s.ringOk) (hn : n ≤ s.used) : (s.advanceRd n).used = s.used - n :=
  used_advance h.1 h.2 hn

/-- Distinct places of one lap are distinct indices. -/
theorem index_ne {i k n cap : Nat} (hk : k < n) (hn : n < cap) : (i + k) % cap ≠ (i + n) % cap := by
  intro h
  have : k % cap = n % cap := Nat.ModEq.add_left_cancel' i h
  rw [Nat.mod_eq_of_lt (by omega), Nat.mod_eq_of_lt hn] at this
  omega

/-- Appending a byte to a ring that is not full appends it to the unread region (R141, R25). -/
theorem State.appendRing_unread (b : Byte) {u : List Byte} (h : s.ringOk) (hu : s.unread = some u) (hf : s.used ≠ s.cfg.cap - 1) :
    (s.appendRing b).unread = some (u ++ [b]) := by
  have hlt := State.used_lt h
  unfold State.unread at hu ⊢
  rw [State.appendRing_used b h hf]
  simp only [State.appendRing_ring, State.appendRing_rd, State.appendRing_cfg]
  rw [Memory.readRing_snoc, Memory.readRing_write_of_ne, hu, ← State.wr_eq h, Memory.read_write_same]
  intro k hk
  have := index_ne (i := s.rd) hk hlt
  rwa [← State.wr_eq h] at this

/-- Advancing RD past unread bytes drops them (R166). -/
theorem State.advanceRd_unread (n : Nat) {u : List Byte} (h : s.ringOk) (hu : s.unread = some u) (hn : n ≤ s.used) :
    (s.advanceRd n).unread = some (u.drop n) := by
  unfold State.unread at hu ⊢
  rw [State.advanceRd_used n h hn]
  simp only [State.advanceRd_ring, State.advanceRd_rd, State.advanceRd_cfg]
  rw [Memory.readRing_mod_start]
  exact Memory.readRing_drop hu hn

/-- The unread region depends only on the ring, its indices and the configuration. -/
theorem State.unread_congr {s t : State} (h1 : t.ring = s.ring) (h2 : t.rd = s.rd) (h3 : t.wr = s.wr) (h4 : t.cfg = s.cfg) :
    t.unread = s.unread := by
  unfold State.unread State.used; rw [h1, h2, h3, h4]

theorem State.used_congr {s t : State} (h2 : t.rd = s.rd) (h3 : t.wr = s.wr) (h4 : t.cfg = s.cfg) : t.used = s.used := by
  unfold State.used; rw [h2, h3, h4]

end Sys2Proof.Machine
end

