-- ==== Sys2Proof/Laws/Ops.lean ====
section
/-! SUPPORT. What the shared operations can do: the enabling guards, taking an interrupt, returning in the command context, the bounded queues, the lock. -/

namespace Sys2Proof.Machine

variable {s t : State} {k : Res}

/-! ### Enabling -/

theorem whenCmdIdle_ready (k : Res) (h : s.cmdReady) : whenCmdIdle s k = k := by
  simp [whenCmdIdle, State.cmdIdle, h.1, h.2]

/-- An operation the command context begins either waits or does what `k` does. -/
theorem whenCmdIdle_cases : whenCmdIdle s k = .next s ∨ (s.cmdReady ∧ whenCmdIdle s k = k) := by
  unfold whenCmdIdle
  split
  · rename_i h
    simp only [State.cmdIdle, Bool.and_eq_true, decide_eq_true_eq] at h
    exact .inr ⟨h, rfl⟩
  · exact .inl rfl

theorem inHandler_nil (h : s.cmdctx = []) : s.inHandler = false := by simp [State.inHandler, h]

theorem taskAgent_iff {a : Agent} : taskAgent a = true ↔ a = .cmdctx ∨ a = .bridge := by simp [taskAgent]

/-- A free LOCK can be acquired by any task agent (R28). -/
theorem canAcquire_free (h : s.lock = { owner := none, depth := 0 }) {a : Agent} (ha : taskAgent a = true) : s.lock.canAcquire a = true := by
  simp [Lock.canAcquire, h, ha]

/-- Where CMDCTX may begin a parser operation, any task may call RECEIVE. -/
theorem State.parserReady.receive (h : s.parserReady) (ha : taskAgent s.env.caller = true) : s.receiveReady :=
  ⟨h.1.1, canAcquire_free h.2 ha, fun _ => h.1.2⟩

theorem whenParserIdle_ready (k : Res) (h : s.parserReady) : whenParserIdle s k = k := by
  simp [whenParserIdle, h.1.1, inHandler_nil h.1.2, State.cmdIdle, h.1.2, canAcquire_free h.2 (a := .cmdctx) rfl]

/-- A parser operation waits, is refused inside the handler, or does what `k` does. -/
theorem whenParserIdle_cases :
    whenParserIdle s k = .next s ∨ (s.inHandler = true ∧ whenParserIdle s k = .refused .wrongContext) ∨
      (s.running = true ∧ s.cmdctx = [] ∧ s.lock.canAcquire .cmdctx = true ∧ whenParserIdle s k = k) := by
  unfold whenParserIdle
  split
  · exact .inl rfl
  · split
    · exact .inr (.inl ⟨‹_›, rfl⟩)
    · split
      · rename_i h1 _ h
        simp only [State.cmdIdle, Bool.and_eq_true, decide_eq_true_eq] at h
        exact .inr (.inr ⟨by simpa using h1, h.1, h.2, rfl⟩)
      · exact .inl rfl

theorem whenBridgeIdle_ready (k : Res) (h : s.bridgeReady) : whenBridgeIdle s k = k := by
  simp [whenBridgeIdle, h.1, h.2]

theorem whenBridgeIdle_cases : whenBridgeIdle s k = .next s ∨ (s.bridgeReady ∧ whenBridgeIdle s k = k) := by
  unfold whenBridgeIdle
  split
  · rename_i h
    simp only [Bool.and_eq_true, decide_eq_true_eq] at h
    exact .inr ⟨h, rfl⟩
  · exact .inl rfl

/-- Taking an interrupt: nothing but the handler's own effect, and only while enabled (R291, R296). -/
theorem takeInterrupt_cases : takeInterrupt s k = .next s ∨ (s.interruptReady ∧ takeInterrupt s k = k) := by
  unfold takeInterrupt
  split
  · rename_i h
    simp only [State.interruptsEnabled, Bool.and_eq_true] at h
    exact .inr ⟨⟨h.1.1, h.1.2, h.2⟩, rfl⟩
  · exact .inl rfl

theorem takeInterrupt_ready (k : Res) (h : s.interruptReady) : takeInterrupt s k = k := by
  simp [takeInterrupt, State.interruptsEnabled, h.1, h.2.1, h.2.2]

/-! ### Queues and the lock -/

theorem pushBounded_cases {α : Type} (cap : Nat) (q : List α) (e : α) :
    (q.length < cap ∧ pushBounded cap q e = some (q ++ [e])) ∨ (cap ≤ q.length ∧ pushBounded cap q e = none) := by
  unfold pushBounded
  split
  · exact .inl ⟨‹_›, rfl⟩
  · exact .inr ⟨by omega, rfl⟩

theorem popOldest_cases {α : Type} (q : List α) :
    (q = [] ∧ popOldest q = (none, [])) ∨ ∃ e r, q = e :: r ∧ popOldest q = (some e, r) := by
  cases q with
  | nil => exact .inl ⟨rfl, rfl⟩
  | cons e r => exact .inr ⟨e, r, rfl, rfl⟩

theorem Lock.release_one (a : Option Agent) : Lock.release { owner := a, depth := 1 } = { owner := none, depth := 0 } := rfl

theorem Lock.acquire_free (a : Agent) : Lock.acquire { owner := none, depth := 0 } a = { owner := some a, depth := 1 } := rfl

/-! ### Returning in the command context -/

/-- A return either ends the enclosing SCAN (R153) or hands the result to a direct caller. -/
theorem cmdReturn_cases (r : Ret) (s : State) :
    (∃ len plen rest, s.cmdctx = .scanReturn len plen :: rest ∧
      cmdReturn r s = { s with
        cmdctx := rest, lock := s.lock.release, rd := (s.rd + len) % s.cfg.cap, ret := .outcome (.accept plen) }) ∨
    ((∀ len plen rest, s.cmdctx ≠ .scanReturn len plen :: rest) ∧ cmdReturn r s = { s with ret := r }) := by
  unfold cmdReturn
  split
  · exact .inl ⟨_, _, _, ‹_›, rfl⟩
  · rename_i h
    exact .inr ⟨fun len plen rest e => h len plen rest e, rfl⟩

theorem cmdReturn_idle (r : Ret) (h : s.cmdctx = []) : cmdReturn r s = { s with ret := r } := by
  simp [cmdReturn, h, State.returns]

theorem cmdReturn_scan (r : Ret) {len plen : Nat} {rest : List CmdFrame} (h : s.cmdctx = .scanReturn len plen :: rest) :
    cmdReturn r s = { s with
      cmdctx := rest, lock := s.lock.release, rd := (s.rd + len) % s.cfg.cap, ret := .outcome (.accept plen) } := by
  simp only [cmdReturn, h]; rfl

/-- What a return leaves as it is. -/
theorem cmdReturn_frame (r : Ret) (s : State) :
    cmdReturn r s = { s with
      cmdctx := (cmdReturn r s).cmdctx, lock := (cmdReturn r s).lock, rd := (cmdReturn r s).rd, ret := (cmdReturn r s).ret } := by
  rcases cmdReturn_cases r s with ⟨len, plen, rest, h, e⟩ | ⟨h, e⟩ <;> rw [e]

@[simp] theorem cmdReturn_ring (r : Ret) : (cmdReturn r s).ring = s.ring := by rw [cmdReturn_frame]
@[simp] theorem cmdReturn_wr (r : Ret) : (cmdReturn r s).wr = s.wr := by rw [cmdReturn_frame]
@[simp] theorem cmdReturn_cmd (r : Ret) : (cmdReturn r s).cmd = s.cmd := by rw [cmdReturn_frame]
@[simp] theorem cmdReturn_cmdLen (r : Ret) : (cmdReturn r s).cmdLen = s.cmdLen := by rw [cmdReturn_frame]
@[simp] theorem cmdReturn_seq (r : Ret) : (cmdReturn r s).seq = s.seq := by rw [cmdReturn_frame]
@[simp] theorem cmdReturn_txq (r : Ret) : (cmdReturn r s).txq = s.txq := by rw [cmdReturn_frame]
@[simp] theorem cmdReturn_rxq (r : Ret) : (cmdReturn r s).rxq = s.rxq := by rw [cmdReturn_frame]
@[simp] theorem cmdReturn_bst (r : Ret) : (cmdReturn r s).bst = s.bst := by rw [cmdReturn_frame]
@[simp] theorem cmdReturn_timing (r : Ret) : (cmdReturn r s).timing = s.timing := by rw [cmdReturn_frame]
@[simp] theorem cmdReturn_irqEn (r : Ret) : (cmdReturn r s).irqEn = s.irqEn := by rw [cmdReturn_frame]
@[simp] theorem cmdReturn_notifArmed (r : Ret) : (cmdReturn r s).notifArmed = s.notifArmed := by rw [cmdReturn_frame]
@[simp] theorem cmdReturn_txInflight (r : Ret) : (cmdReturn r s).txInflight = s.txInflight := by rw [cmdReturn_frame]
@[simp] theorem cmdReturn_notif (r : Ret) : (cmdReturn r s).notif = s.notif := by rw [cmdReturn_frame]
@[simp] theorem cmdReturn_bridge (r : Ret) : (cmdReturn r s).bridge = s.bridge := by rw [cmdReturn_frame]
@[simp] theorem cmdReturn_egq (r : Ret) : (cmdReturn r s).egq = s.egq := by rw [cmdReturn_frame]
@[simp] theorem cmdReturn_buf (r : Ret) : (cmdReturn r s).buf = s.buf := by rw [cmdReturn_frame]
@[simp] theorem cmdReturn_inited (r : Ret) : (cmdReturn r s).inited = s.inited := by rw [cmdReturn_frame]
@[simp] theorem cmdReturn_cfg (r : Ret) : (cmdReturn r s).cfg = s.cfg := by rw [cmdReturn_frame]
@[simp] theorem cmdReturn_raised (r : Ret) : (cmdReturn r s).raised = s.raised := by rw [cmdReturn_frame]
@[simp] theorem cmdReturn_outputs (r : Ret) : (cmdReturn r s).outputs = s.outputs := by rw [cmdReturn_frame]

/-- With an empty stack a return leaves RD, LOCK and the stack alone. -/
theorem cmdReturn_rd_idle (r : Ret) (h : s.cmdctx = []) : (cmdReturn r s).rd = s.rd := by rw [cmdReturn_idle r h]

end Sys2Proof.Machine
end

