-- ==== Sys2Proof/Laws/Egress.lean ====
section
/-! SUPPORT. What the egress operations and the bridge task's steps can do. -/

namespace Sys2Proof.Machine

variable {s t : State}

/-! ### Messages and their payloads -/

theorem reportId_eq (m : CanMessage) :
    reportId m = 0x20 + (if m.msgFormat = .fd then 2 else 0) + (if m.idType = .extended then 1 else 0) := by
  unfold reportId; cases m.msgFormat <;> cases m.idType <;> rfl

theorem reportIdent_toNat (m : CanMessage) : (reportIdent m).toNat = m.identifier.toNat := by
  simp only [reportIdent, BitVec.toNat_ofNat]; have := m.identifier.isLt; omega

theorem dlc2len_le (code : BitVec 4) : dlc2len code ≤ 64 := by revert code; decide

/-- A classic message has at most 8 bytes (R32). -/
theorem nbytes_classic {m : CanMessage} (h : m.wf) (hf : m.msgFormat = .classic) : m.nbytes ≤ 8 := by
  have : ∀ code : BitVec 4, code.toNat ≤ 8 → dlc2len code ≤ 8 := by decide
  exact this _ (h.1 hf)

theorem take_nbytes {m : CanMessage} (h : m.wf) : m.payload.take m.nbytes = m.payload := by
  rw [← h.2.1]; exact List.take_length

/-- REPORT's payloads (R252): one that fits, two fragments that fit, or the refusal it names. -/
theorem reportPayloads_cases (c : Config) (m : CanMessage) :
    (¬ m.wf ∧ reportPayloads c m = .error .illFormedMessage) ∨
    (m.wf ∧ m.nbytes ≤ c.cap1 ∧
      reportPayloads c m = .ok [reportBytes (reportId m) (reportIdent m) (BitVec.ofNat 8 m.nbytes) m.payload]) ∨
    (m.wf ∧ c.cap1 < m.nbytes ∧ c.fragMode = .twoPacket ∧
      reportPayloads c m = .ok [reportBytes (reportId m ||| 0x80) (reportIdent m) (BitVec.ofNat 8 m.nbytes) (m.payload.take c.cap1),
        contBytes (BitVec.ofNat 8 c.cap1) (m.payload.drop c.cap1)]) ∨
    (m.wf ∧ c.cap1 < m.nbytes ∧ c.fragMode = .refuse ∧ reportPayloads c m = .error .oversizedReport) := by
  unfold reportPayloads
  split
  · rename_i h
    rw [take_nbytes h]
    split
    · exact .inr (.inl ⟨h, ‹_›, rfl⟩)
    · split
      · exact .inr (.inr (.inl ⟨h, by omega, ‹_›, rfl⟩))
      · exact .inr (.inr (.inr ⟨h, by omega, ‹_›, rfl⟩))
  · exact .inl ⟨‹_›, rfl⟩

@[simp] theorem reportBytes_length (id : Byte) (ident : BitVec 32) (n : Byte) (data : List Byte) :
    (reportBytes id ident n data).length = 6 + data.length := by simp [reportBytes]; omega

@[simp] theorem contBytes_length (o : Byte) (data : List Byte) : (contBytes o data).length = 2 + data.length := by
  simp [contBytes]; omega

/-- A report has at least one payload, and each fits a packet and the length field (R13, R255, R260). -/
theorem reportPayloads_fit {c : Config} {m : CanMessage} {ps : List (List Byte)} (hs : c.sizesOk)
    (h : reportPayloads c m = .ok ps) : ps ≠ [] ∧ ∀ p ∈ ps, c.frameFits c.pkt p.length := by
  have h14 := hs.2.2.1
  have h72 := hs.2.2.2.1
  have hcap : c.cap1 = c.pkt - c.ovh - 6 := rfl
  have h64 : m.nbytes ≤ 64 := dlc2len_le _
  have hov : c.ovh + 70 ≤ c.seqMod - 1 := by
    unfold Config.ovh Config.seqMod; cases c.w <;> simp [Width.bytes]
  unfold Config.frameFits
  rcases reportPayloads_cases c m with ⟨hm, e⟩ | ⟨hm, hn, e⟩ | ⟨hm, hn, hf, e⟩ | ⟨hm, hn, hf, e⟩ <;> rw [e] at h
  · cases h
  · cases h
    have := hm.2.1
    simp; omega
  · cases h
    have := hm.2.1
    simp; omega
  · cases h

/-! ### FORMAT_FRAME's buffer -/

/-- The caller's buffer keeps its size (R160). -/
theorem formatBuffer_length {c : Config} {seq n : Nat} {buf : List Byte} (h : c.ovh + n ≤ buf.length) :
    (formatBuffer c seq buf n).length = buf.length := by
  have hov : c.ovh = 2 + 2 * c.w.bytes := rfl
  simp [formatBuffer, slice]; omega

/-- `packet_of` is the frame, then zeros up to `PKT` (R256, R119). -/
theorem packetBytes_eq (c : Config) (seq : Nat) (p : List Byte) :
    packetBytes c seq p = frameBytes c seq p ++ List.replicate (c.pkt - (c.ovh + p.length)) 0 := by
  have hov : c.ovh + p.length = (1 + 2 * c.w.bytes + p.length) + 1 := by unfold Config.ovh; omega
  have hsl : slice (packetBuffer c p) (1 + 2 * c.w.bytes) p.length = p := by
    simp only [slice, packetBuffer, List.append_assoc]
    rw [List.drop_left' (by simp), List.take_left' rfl]
  have hdr : (packetBuffer c p).drop (c.ovh + p.length) = List.replicate (c.pkt - (c.ovh + p.length)) 0 := by
    rw [hov, ← List.drop_drop, packetBuffer, List.drop_left' (by simp), List.drop_replicate]
    congr 1
  rw [packetBytes, formatBuffer, hsl, hdr]

@[simp] theorem packetBytes_length {c : Config} {seq : Nat} {p : List Byte} (h : c.ovh + p.length ≤ c.pkt) :
    (packetBytes c seq p).length = c.pkt := by simp [packetBytes_eq]; omega

/-! ### EMIT -/

/-- EMIT writes, queues or drops (R265). -/
theorem emitPacket_cases (pkt : List Byte) (a : Bool) (s : State) :
    (a = true ∧ emitPacket pkt a s = { s with outputs := s.outputs ++ [.transportWrite pkt], ret := .bool true }) ∨
    (a = false ∧ s.egq.length < s.cfg.egqCap ∧ emitPacket pkt a s = { s with egq := s.egq ++ [pkt], ret := .bool true }) ∨
    (a = false ∧ s.cfg.egqCap ≤ s.egq.length ∧
      emitPacket pkt a s = { s with raised := s.raised ++ [.backpressure .egressQueueFull], ret := .bool false }) := by
  unfold emitPacket
  split
  · exact .inl ⟨‹_›, rfl⟩
  · rename_i ha
    simp only [Bool.not_eq_true] at ha
    rcases pushBounded_cases s.cfg.egqCap s.egq pkt with ⟨h, e⟩ | ⟨h, e⟩ <;> simp only [e]
    · exact .inr (.inl ⟨ha, h, rfl⟩)
    · exact .inr (.inr ⟨ha, h, rfl⟩)

theorem emitPacket_frame (pkt : List Byte) (a : Bool) (s : State) :
    emitPacket pkt a s = { s with
      egq := (emitPacket pkt a s).egq, ret := (emitPacket pkt a s).ret
      raised := (emitPacket pkt a s).raised, outputs := (emitPacket pkt a s).outputs } := by
  rcases emitPacket_cases pkt a s with ⟨h, e⟩ | ⟨h, h2, e⟩ | ⟨h, h2, e⟩ <;> rw [e]

/-- EMIT looks neither at the buffer nor at SEQ nor at BRIDGE's marker (R265). -/
theorem emitPacket_set (pkt : List Byte) (a : Bool) (s : State) (buf : List Byte) (seq : Nat) (b : BridgePc) :
    emitPacket pkt a { s with buf := buf, seq := seq, bridge := b } = { emitPacket pkt a s with buf := buf, seq := seq, bridge := b } := by
  rcases emitPacket_cases pkt a s with ⟨h, e⟩ | ⟨h, h2, e⟩ | ⟨h, h2, e⟩ <;> rw [e]
  · subst h; rfl
  · subst h; simp [emitPacket, pushBounded, h2, State.returns]
  · subst h; simp [emitPacket, pushBounded, Nat.not_lt.2 h2, State.returns, State.raise]

/-! ### REPORT's steps -/

/-- A formatted payload: the packet and one sequence number (R256). -/
theorem formatInto_packet (p : List Byte) (s : State) :
    formatInto (packetBuffer s.cfg p) p.length s = { s with buf := packetBytes s.cfg s.seq p, seq := (s.seq + 1) % s.cfg.seqMod } := rfl

theorem formatNext_fits {p : List Byte} (left : List (List Byte)) (h : s.cfg.frameFits s.cfg.pkt p.length) :
    formatNext p left s = .next { s with
      buf := packetBytes s.cfg s.seq p, seq := (s.seq + 1) % s.cfg.seqMod, bridge := .emit (packetBytes s.cfg s.seq p) left } := by
  rw [formatNext, if_pos h]; rfl

theorem formatNext_next {p : List Byte} {left : List (List Byte)} (h : formatNext p left s = .next t) :
    s.cfg.frameFits s.cfg.pkt p.length ∧ t = { s with
      buf := packetBytes s.cfg s.seq p, seq := (s.seq + 1) % s.cfg.seqMod, bridge := .emit (packetBytes s.cfg s.seq p) left } := by
  by_cases hl : s.cfg.frameFits s.cfg.pkt p.length
  · rw [formatNext_fits left hl] at h
    exact ⟨hl, by injection h with h; exact h.symm⟩
  · rw [formatNext, if_neg hl] at h; cases h

/-- One payload of a report that is one step (ATOMIC_OPS = on). -/
theorem reportAtOnce_fits {p : List Byte} (a : Bool) (ps : List (List Byte)) (h : s.cfg.frameFits s.cfg.pkt p.length) :
    reportAtOnce a (p :: ps) s = reportAtOnce s.env.transportAgain ps (emitPacket (packetBytes s.cfg s.seq p) a { s with
      buf := packetBytes s.cfg s.seq p, seq := (s.seq + 1) % s.cfg.seqMod }) := by
  rw [reportAtOnce, if_pos h]; rfl

/-- What a report that is one step can do: it ends at WAIT, having written the buffer and SEQ and EMITted at most its payloads, or a payload fits no packet. -/
theorem reportAtOnce_cases (a : Bool) (ps : List (List Byte)) (s : State) :
    (∃ t, reportAtOnce a ps s = .next t ∧
      t = { s with buf := t.buf, seq := t.seq, bridge := .wait, egq := t.egq, ret := t.ret, raised := t.raised, outputs := t.outputs } ∧
      (s.seq < s.cfg.seqMod → t.seq < s.cfg.seqMod) ∧
      ∃ es, t.egq = s.egq ++ es ∧ es.length ≤ ps.length ∧ (s.egq.length ≤ s.cfg.egqCap → t.egq.length ≤ s.cfg.egqCap) ∧
        ∀ e ∈ es, e.length = s.cfg.pkt) ∨
    (reportAtOnce a ps s = .refused .operandOutOfRange ∧ ∃ p ∈ ps, ¬ s.cfg.frameFits s.cfg.pkt p.length) := by
  induction ps generalizing a s with
  | nil => exact .inl ⟨_, rfl, rfl, fun h => h, [], by simp, by simp, fun h => h, by simp⟩
  | cons p ps ih =>
    by_cases hp : s.cfg.frameFits s.cfg.pkt p.length
    · rw [reportAtOnce_fits a ps hp]
      rcases emitPacket_cases (packetBytes s.cfg s.seq p) a { s with
        buf := packetBytes s.cfg s.seq p, seq := (s.seq + 1) % s.cfg.seqMod } with ⟨_, e⟩ | ⟨_, hl, e⟩ | ⟨_, hl, e⟩ <;> rw [e]
      all_goals
        rcases ih s.env.transportAgain _ with ⟨t, h1, h2, h3, es, h4, h5, h6, h7⟩ | ⟨h1, q, h2, h3⟩
        case inr => exact .inr ⟨h1, q, List.mem_cons_of_mem _ h2, h3⟩
        have hq : (s.seq + 1) % s.cfg.seqMod < s.cfg.seqMod := Nat.mod_lt _ s.cfg.seqMod_pos
      · exact .inl ⟨t, h1, h2, fun _ => h3 hq, es, h4, by simp; omega, h6, h7⟩
      · refine .inl ⟨t, h1, h2, fun _ => h3 hq, packetBytes s.cfg s.seq p :: es, by rw [h4]; simp, by simp; omega, fun h => h6 (by simp; omega), ?_⟩
        intro x hx
        rcases List.mem_cons.1 hx with rfl | hx
        · exact packetBytes_length hp.1
        · exact h7 x hx
      · exact .inl ⟨t, h1, h2, fun _ => h3 hq, es, h4, by simp; omega, h6, h7⟩
    · exact .inr ⟨by rw [reportAtOnce, if_neg hp], p, List.mem_cons_self, hp⟩

/-- The bridge task emits one payload, ATOMIC_OPS = off: it is formatted, and EMIT is the next step. -/
theorem emitPayload_ready {p : List Byte} (h : s.bridgeReady) (ha : s.cfg.atomicOps = false) (hp : s.cfg.frameFits s.cfg.pkt p.length) :
    emitPayload p s = .next { s with
      buf := packetBytes s.cfg s.seq p, seq := (s.seq + 1) % s.cfg.seqMod, bridge := .emit (packetBytes s.cfg s.seq p) [] } := by
  rw [emitPayload, whenBridgeIdle_ready _ h, beginReport, if_neg (by simp [ha])]
  exact formatNext_fits _ hp

/-- The bridge task emits one payload, ATOMIC_OPS = on: formatted and EMITted in the step. -/
theorem emitPayload_atOnce {p : List Byte} (h : s.bridgeReady) (ha : s.cfg.atomicOps = true) (hp : s.cfg.frameFits s.cfg.pkt p.length) :
    emitPayload p s = .next { emitPacket (packetBytes s.cfg s.seq p) s.env.transportAvailable { s with
      buf := packetBytes s.cfg s.seq p, seq := (s.seq + 1) % s.cfg.seqMod } with bridge := .wait } := by
  rw [emitPayload, whenBridgeIdle_ready _ h, beginReport, if_pos ha, reportAtOnce_fits _ _ hp]; rfl

theorem emitFragment_twoPacket (p : List Byte) (hf : s.cfg.fragMode = .twoPacket) : emitFragment p s = emitPayload p s := by
  simp only [emitFragment, hf]

/-- A step inside REPORT formats the next payload, EMITs the packet, or, where BRIDGE never stands, changes the marker or nothing (R252, R260). -/
theorem reportStep_cases (s : State) :
    (∃ p ps, (s.bridge = .format (p :: ps) ∨ s.bridge = .second (p :: ps)) ∧ reportStep s = formatNext p ps s) ∨
    (∃ pkt left, s.bridge = .emit pkt left ∧
      reportStep s = .next { emitPacket pkt s.env.transportAvailable s with bridge := afterEmit left }) ∨
    ((s.bridge = .format [] ∨ s.bridge = .second []) ∧ reportStep s = .next { s with bridge := .wait }) ∨
    reportStep s = .next s := by
  unfold reportStep
  split
  · rename_i ps hb
    cases ps with
    | nil => exact .inr (.inr (.inl ⟨.inl hb, rfl⟩))
    | cons p ps => exact .inl ⟨p, ps, .inl hb, rfl⟩
  · rename_i ps hb
    cases ps with
    | nil => exact .inr (.inr (.inl ⟨.inr hb, rfl⟩))
    | cons p ps => exact .inl ⟨p, ps, .inr hb, rfl⟩
  · exact .inr (.inl ⟨_, _, ‹_›, rfl⟩)
  all_goals exact .inr (.inr (.inr rfl))

/-- TASK_RX pops and begins a REPORT, takes REPORT's next step, or waits (R236). -/
theorem execTaskRx_cases (s : State) :
    execTaskRx s = .next s ∨ (s.running = true ∧
      ((∃ pending, s.bridge = .rx pending ∧ execTaskRx s = taskRxStep s) ∨ execTaskRx s = reportStep s)) := by
  unfold execTaskRx
  split
  · rename_i hr
    split
    · exact .inr ⟨hr, .inl ⟨_, ‹_›, rfl⟩⟩
    · exact .inr ⟨hr, .inr rfl⟩
    · exact .inr ⟨hr, .inr rfl⟩
    · exact .inr ⟨hr, .inr rfl⟩
    all_goals exact .inl rfl
  · exact .inl rfl

/-- The bridge task at an `emit` marker EMITs, with the availability the environment presents (R265). -/
theorem bridgeResume_emit {pkt : List Byte} {left : List (List Byte)} (hr : s.running = true) (hb : s.bridge = .emit pkt left) :
    bridgeResume s = .next { emitPacket pkt s.env.transportAvailable s with bridge := afterEmit left } := by
  simp [bridgeResume, hb, execTaskRx, hr, reportStep]

/-- The bridge task at the `second` marker formats the next payload (R256, R260). -/
theorem bridgeResume_second {p : List Byte} {ps : List (List Byte)} (hr : s.running = true) (hb : s.bridge = .second (p :: ps)) :
    bridgeResume s = formatNext p ps s := by
  simp [bridgeResume, hb, execTaskRx, hr, reportStep, formatLeft]

/-- The bridge task at a `format` marker formats the next payload (R256). -/
theorem bridgeResume_format {p : List Byte} {ps : List (List Byte)} (hr : s.running = true) (hb : s.bridge = .format (p :: ps)) :
    bridgeResume s = formatNext p ps s := by
  simp [bridgeResume, hb, execTaskRx, hr, reportStep, formatLeft]

end Sys2Proof.Machine
end

