-- ==== Sys2Proof/Laws/Bridge.lean ====
section
/-! SUPPORT. What the command context's bridge operations can do, each case as one record update. -/

namespace Sys2Proof.Machine

variable {s t : State}

theorem State.running_iff : s.running = true ↔ s.inited = true ∧ s.bst ≠ .halted := by simp [State.running]

/-! ### CONFIGURE and START -/

/-- CONFIGURE (R201): applied, or refused with its cause and, where it was made, the controller's call. -/
theorem configureStep_cases (arb data : BitrateName) (s : State) :
    (s.ctrlIdle = false ∧ configureStep arb data s = ({ s with raised := s.raised ++ [.configFailure .notIdle] }, false)) ∨
    (s.ctrlIdle = true ∧ (romLookup s.cfg.bitrateRom arb = none ∨ romLookup s.cfg.bitrateRom data = none) ∧
      configureStep arb data s = ({ s with raised := s.raised ++ [.configFailure .badTimingEntry] }, false)) ∨
    (∃ a d, s.ctrlIdle = true ∧ romLookup s.cfg.bitrateRom arb = some a ∧ romLookup s.cfg.bitrateRom data = some d ∧
      ((s.env.configureOk = true ∧ configureStep arb data s = ({ s with
        timing := some { arbitration := a, dataPhase := d }, bst := .configured
        outputs := s.outputs ++ [.ctrlConfigure { arbitration := a, dataPhase := d } true] }, true)) ∨
      (s.env.configureOk = false ∧ configureStep arb data s = ({ s with
        raised := s.raised ++ [.configFailure .peripheral]
        outputs := s.outputs ++ [.ctrlConfigure { arbitration := a, dataPhase := d } false] }, false)))) := by
  unfold configureStep
  cases hi : s.ctrlIdle
  · exact .inl ⟨rfl, rfl⟩
  · rw [if_pos rfl]
    cases h1 : romLookup s.cfg.bitrateRom arb with
    | none => exact .inr (.inl ⟨rfl, .inl rfl, by cases romLookup s.cfg.bitrateRom data <;> rfl⟩)
    | some a =>
      cases h2 : romLookup s.cfg.bitrateRom data with
      | none => exact .inr (.inl ⟨rfl, .inr rfl, rfl⟩)
      | some d =>
        refine .inr (.inr ⟨a, d, rfl, rfl, rfl, ?_⟩)
        cases ho : s.env.configureOk
        · exact .inr ⟨rfl, rfl⟩
        · exact .inl ⟨rfl, rfl⟩

/-- START (R205): accepted with both calls, or refused with its cause and the calls made. -/
theorem startStep_cases (s : State) :
    (s.bst ≠ .configured ∧ startStep s = ({ s with raised := s.raised ++ [.configFailure .badState] }, false)) ∨
    (s.bst = .configured ∧ s.env.startOk = true ∧ s.env.armOk = true ∧ startStep s = ({ s with
      bst := .started, irqEn := true, notifArmed := true, outputs := s.outputs ++ [.ctrlStart true, .ctrlArm true] }, true)) ∨
    (s.bst = .configured ∧ ∃ o, startStep s = ({ s with
      raised := s.raised ++ [.configFailure .peripheral], outputs := s.outputs ++ o }, false)) := by
  unfold startStep
  by_cases hb : s.bst = .configured
  · rw [if_pos hb]
    cases h1 : s.env.startOk
    · exact .inr (.inr ⟨hb, [.ctrlStart false], rfl⟩)
    · cases h2 : s.env.armOk
      · exact .inr (.inr ⟨hb, [.ctrlStart true, .ctrlArm false], by
          simp [State.emitOutput, State.raise]⟩)
      · exact .inr (.inl ⟨hb, rfl, rfl, by simp [State.emitOutput, State.setArmed, State.setIrqEn]⟩)
  · rw [if_neg hb]; exact .inl ⟨hb, rfl⟩

/-! ### STOP -/

theorem stopStep1_eq (cmd : Bool) (s : State) : stopStep1 cmd s = { s with irqEn := false, cmdctx := .stop2 cmd :: s.cmdctx } := rfl

theorem stopStep2_eq (cmd : Bool) (s : State) : stopStep2 cmd s = { s with
    notifArmed := false, cmdctx := .stop3 cmd :: s.cmdctx, outputs := s.outputs ++ [.ctrlDisarm s.env.disarmOk] } := rfl

theorem stopStep3_eq (cmd : Bool) (s : State) : stopStep3 cmd s = cmdReturn (opResult cmd s.env.stopOk) { s with
    bst := if s.bst = .started then .configured else s.bst
    outputs := s.outputs ++ [.ctrlStop s.env.stopOk]
    raised := if s.env.stopOk then s.raised else s.raised ++ [.configFailure .peripheral] } := by
  unfold stopStep3
  by_cases hb : s.bst = .started <;> cases ho : s.env.stopOk <;> simp [hb, State.emitOutput, State.raise]

/-! ### SEND -/

theorem sendStep2_eq (cmd : Bool) (s : State) : sendStep2 cmd s = cmdReturn (opResult cmd true) { s with
    notif := { s.notif with txReady := s.notif.txReady || !s.txInflight } } := by
  unfold sendStep2 State.signalTxReady
  split <;> rename_i h
  · rw [show (s.notif.txReady || !s.txInflight) = s.notif.txReady by simp [h]]
  · rw [show (s.notif.txReady || !s.txInflight) = true by simp [h]]

/-- SEND step S1 (R212): queued, with S2 in the same step or to follow, or the queue is full. -/
theorem sendStep1_cases (m : CanMessage) (cmd : Bool) (s : State) :
    (s.txq.length < Config.txqCap ∧ s.cfg.atomicOps = true ∧ sendStep1 m cmd s = sendStep2 cmd { s with txq := s.txq ++ [m] }) ∨
    (s.txq.length < Config.txqCap ∧ s.cfg.atomicOps = false ∧
      sendStep1 m cmd s = { s with txq := s.txq ++ [m], cmdctx := .send2 cmd :: s.cmdctx }) ∨
    (Config.txqCap ≤ s.txq.length ∧ sendStep1 m cmd s = cmdReturn (opResult cmd false) { s with
      raised := if cmd then s.raised ++ [.backpressure .txQueueFull] else s.raised }) := by
  unfold sendStep1
  rcases pushBounded_cases Config.txqCap s.txq m with ⟨h, e⟩ | ⟨h, e⟩ <;> simp only [e]
  · cases ha : s.cfg.atomicOps
    · exact .inr (.inl ⟨h, rfl, rfl⟩)
    · exact .inl ⟨h, rfl, rfl⟩
  · refine .inr (.inr ⟨h, ?_⟩)
    cases cmd <;> rfl

/-! ### Commands -/

theorem ignoreCommand_eq (cause : InvalidCause) (s : State) :
    ignoreCommand cause s = cmdReturn (.status .ignored) { s with raised := s.raised ++ [.invalidParams cause] } := rfl

/-- CONNECT's first step (R183): STOP step 1, CONFIGURE with START to follow, or CONFIGURE refused. -/
theorem connectBody_cases (param : Byte) (s : State) :
    (param ≠ 0x01 ∧ connectBody param s = { s with irqEn := false, cmdctx := .stop2 true :: s.cmdctx }) ∨
    (param = 0x01 ∧ ∃ x, configureStep s.cfg.defaultArb s.cfg.defaultData s = (x, true) ∧
      connectBody param s = { x with cmdctx := .connectStart :: x.cmdctx }) ∨
    (param = 0x01 ∧ ∃ x, configureStep s.cfg.defaultArb s.cfg.defaultData s = (x, false) ∧
      connectBody param s = cmdReturn (.status .done) x) := by
  unfold connectBody
  by_cases hp : param = 0x01
  · rw [if_pos hp]
    rcases h : configureStep s.cfg.defaultArb s.cfg.defaultData s with ⟨x, ok⟩
    cases ok
    · exact .inr (.inr ⟨hp, x, rfl, rfl⟩)
    · exact .inr (.inl ⟨hp, x, rfl, rfl⟩)
  · rw [if_neg hp]; exact .inl ⟨hp, rfl⟩

/-- CAN_SEND (R186, R187): ignored, or SEND of the message it builds. -/
theorem canSendBody_cases (ident : BitVec 32) (data : List Byte) (s : State) :
    (classify s.cfg ident = none ∧ canSendBody ident data s = ignoreCommand .idOutOfRange s) ∨
    ∃ ty id, classify s.cfg ident = some (ty, id) ∧ canSendBody ident data s = sendStep1 (canSendMessage ty id data) true s := by
  unfold canSendBody
  split
  · exact .inl ⟨‹_›, rfl⟩
  · exact .inr ⟨_, _, ‹_›, rfl⟩

/-- The classification keeps identifiers in their type's range (R187). -/
theorem classify_range {c : Config} {ident : BitVec 32} {ty : IdType} {id : BitVec 29} (h : classify c ident = some (ty, id)) :
    ty = .standard → id.toNat ≤ 0x7FF := by
  unfold classify at h
  rintro rfl
  split at h
  · split at h
    · cases h; simp only [BitVec.toNat_ofNat]; omega
    · split at h
      · cases h
      · cases h; simp only [BitVec.toNat_ofNat]; omega
  · split at h
    · cases h; simp only [BitVec.toNat_ofNat]; omega
    · split at h
      · cases h
      · split at h <;> cases h

/-- The message CAN_SEND builds is well formed (R186). -/
theorem canSendMessage_wf {c : Config} {ident : BitVec 32} {ty : IdType} {id : BitVec 29} {data : List Byte}
    (h : classify c ident = some (ty, id)) (hd : data.length ≤ 8) : (canSendMessage ty id data).wf := by
  have hc : (BitVec.ofNat 4 data.length).toNat = data.length := by simp only [BitVec.toNat_ofNat]; omega
  refine ⟨fun _ => by rw [canSendMessage, hc]; exact hd, ?_, fun ht => classify_range h ht⟩
  have : ∀ n ≤ 8, dlc2len (BitVec.ofNat 4 n) = n := by decide
  simp [canSendMessage, CanMessage.nbytes, this _ hd]

/-- A CAN_SEND the dispatcher accepts has at most 8 data bytes (R186). -/
theorem decodeCommand_data {c : Config} {p : List Byte} {ident : BitVec 32} {data : List Byte}
    (h : decodeCommand c p = .ok (.canSend ident data)) : data.length ≤ 8 := by
  cases p with
  | nil => simp [decodeCommand] at h
  | cons b rest =>
    simp only [decodeCommand] at h
    split at h
    · unfold decodeConnect at h; split at h <;> cases h
    · split at h
      · unfold decodeCanSend at h
        simp only [] at h
        split at h
        · cases h
        · split at h
          · cases h
          · split at h
            · cases h
            · split at h
              · cases h
              · rename_i hd _ hn
                cases h
                have := congrArg List.length hd
                simp at this hn
                omega
      · cases h

/-- DISPATCH (R180): the payload is read whole, or a byte of it was never written. -/
theorem dispatchBody_cases (n : Nat) (s : State) :
    (s.payload n = none ∧ dispatchBody n s = .refused .unwrittenRead) ∨
    (∃ p cause, s.payload n = some p ∧ decodeCommand s.cfg p = .error cause ∧ dispatchBody n s = .next (ignoreCommand cause s)) ∨
    (∃ p cmd, s.payload n = some p ∧ decodeCommand s.cfg p = .ok cmd ∧ dispatchBody n s = .next (commandBody cmd s)) := by
  unfold dispatchBody
  split
  · exact .inl ⟨‹_›, rfl⟩
  · rename_i p hp
    split
    · exact .inr (.inl ⟨p, _, hp, ‹_›, rfl⟩)
    · exact .inr (.inr ⟨p, _, hp, ‹_›, rfl⟩)

/-! ### The parser -/

theorem scanStep_error {bs : List Byte} {o : ScanOutcome} (hu : s.unread = some bs) (h : scanBytes s.cfg bs = .error o) :
    scanStep s = .next (scanReject o s) := by simp only [scanStep, hu, h]

theorem scanStep_accept {bs p : List Byte} {seq : Nat} (hu : s.unread = some bs) (h : scanBytes s.cfg bs = .ok (seq, p)) :
    scanStep s = acceptFrame p s := by simp only [scanStep, hu, h]

/-- An outcome that accepts nothing stops and changes nothing, or skips one byte with its event (R147 to R152). -/
theorem scanReject_cases (o : ScanOutcome) (s : State) :
    scanReject o s = { s with ret := .outcome o } ∨
    (ScanOutcome.isStop o = false ∧ ∃ c, scanReject o s = { s with
      rd := (s.rd + 1) % s.cfg.cap, raised := s.raised ++ [.streamCorruption c], ret := .outcome o }) := by
  cases o with
  | skipNonTag => exact .inr ⟨rfl, _, rfl⟩
  | skipBadLen => exact .inr ⟨rfl, _, rfl⟩
  | skipBadSum => exact .inr ⟨rfl, _, rfl⟩
  | _ => exact .inl rfl

/-- A frame the scanner accepts lies wholly in the bytes it was given, and its length is legal (R150, R149). -/
theorem scanBytes_length {c : Config} {bs p : List Byte} {seq : Nat} (h : scanBytes c bs = .ok (seq, p)) :
    c.ovh + p.length ≤ bs.length ∧ c.ovh + p.length ≤ c.cap - 1 := by
  cases bs with
  | nil => simp [scanBytes] at h
  | cons b bs =>
    simp only [scanBytes] at h
    split at h
    · cases h
    · split at h
      · cases h
      · split at h
        · cases h
        · split at h
          · cases h
          · split at h
            · cases h
            · cases h
              have : c.ovh = 2 + 2 * c.w.bytes := rfl
              simp [slice] at *
              omega

/-- Acceptance (R153, R154): the fault, or DISPATCH of the copied payload with LOCK held and SCAN's return on the stack. -/
theorem acceptFrame_cases (p : List Byte) (s : State) :
    (s.cfg.cmdMax < p.length ∧ acceptFrame p s = .fault .cmdBufOverrun) ∨
    (p.length ≤ s.cfg.cmdMax ∧ acceptFrame p s = dispatchBody p.length { s with
      cmd := s.cmd.writeSeq 0 p, cmdLen := p.length, lock := s.lock.acquire .cmdctx
      cmdctx := .scanReturn (s.cfg.ovh + p.length) p.length :: s.cmdctx }) := by
  unfold acceptFrame
  split
  · exact .inl ⟨‹_›, rfl⟩
  · exact .inr ⟨by omega, rfl⟩

/-- The handler's dispatch after an acceptance reads the payload it was given (R153). -/
theorem acceptFrame_next {p : List Byte} (h : p.length ≤ s.cfg.cmdMax) :
    acceptFrame p s = .next (match decodeCommand s.cfg p with
      | .error cause => ignoreCommand cause { s with
          cmd := s.cmd.writeSeq 0 p, cmdLen := p.length, lock := s.lock.acquire .cmdctx
          cmdctx := .scanReturn (s.cfg.ovh + p.length) p.length :: s.cmdctx }
      | .ok cmd => commandBody cmd { s with
          cmd := s.cmd.writeSeq 0 p, cmdLen := p.length, lock := s.lock.acquire .cmdctx
          cmdctx := .scanReturn (s.cfg.ovh + p.length) p.length :: s.cmdctx }) := by
  rcases acceptFrame_cases p s with ⟨h', _⟩ | ⟨_, e⟩
  · omega
  · rw [e, dispatchBody]
    simp only [State.payload, Nat.le_refl, if_true, Memory.readSeq_writeSeq]
    cases decodeCommand s.cfg p <;> rfl

/-! ### The bridge task's turn -/

/-- A whole turn of the bridge task that serves TX, ATOMIC_OPS = on (R46, R240): the oldest queued message, if any, is submitted, and TX_INFLIGHT then says whether one was. -/
theorem bridgeTurn_served (ha : s.cfg.atomicOps = true) (ht : s.notif.txReady = true) :
    bridgeTurn s = (if s.notif.rxAvail then taskRxStep else .next) { s with
      notif := Notif.clear, txq := s.txq.tail, bridge := afterTx s.notif, txInflight := !s.txq.isEmpty
      outputs := s.outputs ++ s.txq.head?.toList.map .ctrlSubmit } := by
  have e : taskTxStep1 s.notif (taskWaitStep s) = { s with
      notif := Notif.clear, txq := s.txq.tail, bridge := afterTx s.notif, txInflight := !s.txq.isEmpty
      outputs := s.outputs ++ s.txq.head?.toList.map .ctrlSubmit } := by
    rcases hq : s.txq with _ | ⟨m, q⟩ <;>
      simp [taskTxStep1, taskWaitStep, ha, hq, popOldest, taskTxStep2, State.emitOutput, State.setInflight, State.clearNotif]
  rw [bridgeTurn, if_pos ht, e]
  split <;> rfl

end Sys2Proof.Machine
end

