-- ==== Sys2Proof/Laws/Parser.lean ====
section
/-! SUPPORT. What RECEIVE and the scanner's operations can do: their frames, and that they keep the byte spaces' canonical form. -/

namespace Sys2Proof.Machine

variable {s t : State}

/-! ### RECEIVE -/

theorem receiveReject_frame (bs : List Byte) (i : Nat) (s : State) :
    receiveReject bs i s = { s with
      ring := (receiveReject bs i s).ring, wr := (receiveReject bs i s).wr
      ret := (receiveReject bs i s).ret, raised := (receiveReject bs i s).raised } := by
  induction bs generalizing i s with
  | nil => rfl
  | cons b bs ih =>
    simp only [receiveReject]
    split
    · rfl
    · rw [ih]; rfl

theorem overwriteByte_frame (b : Byte) (s : State) :
    overwriteByte b s = { s with
      ring := (overwriteByte b s).ring, wr := (overwriteByte b s).wr, rd := (overwriteByte b s).rd
      raised := (overwriteByte b s).raised } := by
  simp only [overwriteByte]
  split <;> rfl

theorem overwriteByte_ring (b : Byte) (s : State) : (overwriteByte b s).ring = s.ring.write s.wr b := by
  simp only [overwriteByte]; split <;> rfl

theorem overwriteByte_wr (b : Byte) (s : State) : (overwriteByte b s).wr = (s.wr + 1) % s.cfg.cap := by
  simp only [overwriteByte]; split <;> rfl

theorem receiveOverwrite_frame (bs : List Byte) (s : State) :
    receiveOverwrite bs s = { s with
      ring := (receiveOverwrite bs s).ring, wr := (receiveOverwrite bs s).wr, rd := (receiveOverwrite bs s).rd
      ret := (receiveOverwrite bs s).ret, raised := (receiveOverwrite bs s).raised } := by
  induction bs generalizing s with
  | nil => rfl
  | cons b bs ih =>
    simp only [receiveOverwrite]
    rw [ih, overwriteByte_frame]

/-- RECEIVE changes nothing but RING, WR, RD, the result and the events (R141, R142). -/
theorem receiveBody_frame (bs : List Byte) (s : State) :
    receiveBody bs s = { s with
      ring := (receiveBody bs s).ring, wr := (receiveBody bs s).wr, rd := (receiveBody bs s).rd
      ret := (receiveBody bs s).ret, raised := (receiveBody bs s).raised } := by
  unfold receiveBody
  split
  · rw [receiveReject_frame]
  · exact receiveOverwrite_frame bs s

theorem execReceive_ready (bs : List Byte) (h : s.receiveReady) : execReceive bs s = .next (receiveBody bs s) := by
  obtain ⟨h1, h2, h3⟩ := h
  have hn : ¬ (s.env.caller = .cmdctx ∧ s.inHandler = true) := fun h => by simp [inHandler_nil (h3 h.1)] at h
  simp only [execReceive, h1, hn, h2, Bool.not_true, Bool.false_eq_true, if_false, true_and, if_pos h3]

/-- RECEIVE waits, is refused to the handler (R352), or is taken by a task that holds LOCK for the step (R141). -/
theorem execReceive_cases (bs : List Byte) (s : State) :
    execReceive bs s = .next s ∨
      ((s.env.caller = .cmdctx ∧ s.inHandler = true) ∧ execReceive bs s = .refused .wrongContext) ∨
      (s.receiveReady ∧ execReceive bs s = .next (receiveBody bs s)) := by
  unfold execReceive
  split
  · exact .inl rfl
  · split
    · exact .inr (.inl ⟨‹_›, rfl⟩)
    · split
      · rename_i h1 _ h
        exact .inr (.inr ⟨⟨by simpa using h1, h.1, h.2⟩, rfl⟩)
      · exact .inl rfl

/-- A task waits for LOCK while another task holds it (R28, R312). -/
theorem execReceive_waits (bs : List Byte) (hr : s.running = true) (hc : s.env.caller = .bridge) (hl : s.lock.owner = some .cmdctx) :
    execReceive bs s = .next s := by
  simp [execReceive, hr, hc, hl, Lock.canAcquire, waits]

/-- RECEIVE keeps the ring's canonical form and stays inside the ring. -/
theorem appendRing_memory (b : Byte) (hw : s.ring.wf) (hb : ∀ x ∈ s.ring, x.1 < s.cfg.cap) (hr : s.wr < s.cfg.cap) :
    (s.appendRing b).ring.wf ∧ ∀ x ∈ (s.appendRing b).ring, x.1 < s.cfg.cap := by
  refine ⟨Memory.write_wf _ _ hw, fun x hx => ?_⟩
  rcases Memory.mem_write hx with h | h
  · rw [h]; exact hr
  · exact hb x h

/-! ### SCAN and PROCESS -/

/-- PROCESS's next SCAN (R155): refused, an outcome that accepts nothing, or an acceptance with PROCESS below it. -/
theorem processStep_cases (rest : List CmdFrame) (s : State) :
    (s.unread = none ∧ processStep rest s = .refused .unwrittenRead) ∨
    (∃ bs o, s.unread = some bs ∧ scanBytes s.cfg bs = .error o ∧
      processStep rest s = .next { scanReject o s with cmdctx := if ScanOutcome.isStop o then rest else .process :: rest }) ∨
    (∃ bs seq p, s.unread = some bs ∧ scanBytes s.cfg bs = .ok (seq, p) ∧
      processStep rest s = acceptFrame p { s with cmdctx := .process :: rest }) := by
  unfold processStep
  split
  · exact .inl ⟨‹_›, rfl⟩
  · rename_i bs hu
    split
    · exact .inr (.inl ⟨bs, _, hu, ‹_›, rfl⟩)
    · exact .inr (.inr ⟨bs, _, _, hu, ‹_›, rfl⟩)

theorem scanStep_cases (s : State) :
    (s.unread = none ∧ scanStep s = .refused .unwrittenRead) ∨
    (∃ bs o, s.unread = some bs ∧ scanBytes s.cfg bs = .error o ∧ scanStep s = .next (scanReject o s)) ∨
    (∃ bs seq p, s.unread = some bs ∧ scanBytes s.cfg bs = .ok (seq, p) ∧ scanStep s = acceptFrame p s) := by
  unfold scanStep
  split
  · exact .inl ⟨‹_›, rfl⟩
  · rename_i bs hu
    split
    · exact .inr (.inl ⟨bs, _, hu, ‹_›, rfl⟩)
    · exact .inr (.inr ⟨bs, _, _, hu, ‹_›, rfl⟩)

/-! ### The command context's steps -/

/-- CMDCTX's next atomic step, by the frame on top of its stack (R46). -/
theorem cmdResume_cases (s : State) :
    cmdResume s = .next s ∨
    (s.running = true ∧
      ((∃ rest, s.cmdctx = .process :: rest ∧ s.lock.canAcquire .cmdctx = true ∧ cmdResume s = processStep rest s) ∨
      (∃ len plen rest, s.cmdctx = .scanReturn len plen :: rest ∧ cmdResume s = .next (cmdReturn (.outcome (.accept plen)) s)) ∨
      (∃ rest, s.cmdctx = .connectStart :: rest ∧ cmdResume s = .next (connectStartStep { s with cmdctx := rest })) ∨
      (∃ cmd rest, s.cmdctx = .send2 cmd :: rest ∧ cmdResume s = .next (sendStep2 cmd { s with cmdctx := rest })) ∨
      (∃ cmd rest, s.cmdctx = .stop2 cmd :: rest ∧ cmdResume s = .next (stopStep2 cmd { s with cmdctx := rest })) ∨
      (∃ cmd rest, s.cmdctx = .stop3 cmd :: rest ∧ cmdResume s = .next (stopStep3 cmd { s with cmdctx := rest })))) := by
  unfold cmdResume
  by_cases hr : s.running = true
  · rw [if_pos hr]
    split
    · exact .inl rfl
    · by_cases hl : s.lock.canAcquire .cmdctx = true
      · rw [if_pos hl]; exact .inr ⟨hr, .inl ⟨_, ‹_›, hl, rfl⟩⟩
      · rw [if_neg hl]; exact .inl rfl
    · rename_i len plen rest h
      exact .inr ⟨hr, .inr (.inl ⟨len, plen, rest, h, by rw [← h]⟩)⟩
    · exact .inr ⟨hr, .inr (.inr (.inl ⟨_, ‹_›, rfl⟩))⟩
    · exact .inr ⟨hr, .inr (.inr (.inr (.inl ⟨_, _, ‹_›, rfl⟩)))⟩
    · exact .inr ⟨hr, .inr (.inr (.inr (.inr (.inl ⟨_, _, ‹_›, rfl⟩))))⟩
    · exact .inr ⟨hr, .inr (.inr (.inr (.inr (.inr ⟨_, _, ‹_›, rfl⟩))))⟩
  · rw [if_neg hr]; exact .inl rfl

/-! ### The bridge task's steps -/

/-- TASK_RX's steps and the bridge task's next step stay inside TASK_WAIT, TASK_TX and TASK_RX (R238). -/
theorem bridgeResume_cases (s : State) :
    bridgeResume s = execTaskWait s ∨ bridgeResume s = execTaskTx s ∨ bridgeResume s = execTaskRx s := by
  unfold bridgeResume
  split
  · exact .inl rfl
  · exact .inr (.inl rfl)
  · exact .inr (.inl rfl)
  all_goals exact .inr (.inr rfl)

/-! ### Called operations -/

theorem runCalled_ok {i : Instr} (h : mayCall s.env.caller i = true) : runCalled i s = exec i s := by simp [runCalled, whenCaller, h]

theorem runCalled_refused {i : Instr} (h : mayCall s.env.caller i = false) : runCalled i s = .refused .wrongContext := by
  simp [runCalled, whenCaller, h]

/-- A call either is answered as offered, or its caller may not make it (R310). -/
theorem whenCaller_cases {k : Res} (ok : Bool) : (ok = true ∧ whenCaller ok k = k) ∨ (ok = false ∧ whenCaller ok k = .refused .wrongContext) := by
  cases ok
  · exact .inr ⟨rfl, rfl⟩
  · exact .inl ⟨rfl, rfl⟩

theorem whenCaller_next {k : Res} {ok : Bool} (h : whenCaller ok k = .next t) : k = .next t := by
  rcases whenCaller_cases (k := k) ok with ⟨_, e⟩ | ⟨_, e⟩ <;> rw [e] at h
  · exact h
  · cases h

theorem runCalled_next {i : Instr} (h : runCalled i s = .next t) : exec i s = .next t := whenCaller_next h

end Sys2Proof.Machine
end

