-- ==== Sys2Proof/Laws/Frames.lean ====
section
/-! SUPPORT. The frames of the command context: what a command, a bridge operation and an acceptance leave as they are. -/

namespace Sys2Proof.Machine

variable {s t : State}

/-- A step of the command context outside RECEIVE: of the parser's state only RD, LOCK and CMD may change, of the bridge's only what CONFIGURE, START, STOP and SEND write. -/
structure CmdKeeps (s t : State) : Prop where
  frame : t = { s with
    rd := t.rd, cmd := t.cmd, cmdLen := t.cmdLen, lock := t.lock, txq := t.txq, bst := t.bst, timing := t.timing, irqEn := t.irqEn
    notifArmed := t.notifArmed, notif := t.notif, cmdctx := t.cmdctx, ret := t.ret, raised := t.raised, outputs := t.outputs }
  txq : t.txq = s.txq ∨ ∃ m, t.txq = s.txq ++ [m]

/-- A handler's own step: the command buffer stays too, and RD and LOCK move only where a SCAN returns. -/
structure HandlerKeeps (s t : State) : Prop where
  keeps : CmdKeeps s t
  cmd : t.cmd = s.cmd ∧ t.cmdLen = s.cmdLen
  idle : s.cmdctx = [] → t.rd = s.rd ∧ t.lock = s.lock

theorem HandlerKeeps.refl (s : State) : HandlerKeeps s s := ⟨⟨rfl, .inl rfl⟩, ⟨rfl, rfl⟩, fun _ => ⟨rfl, rfl⟩⟩

/-- A return after a step that kept the stack. -/
theorem HandlerKeeps.return (r : Ret) (h : HandlerKeeps s t) (hc : t.cmdctx = s.cmdctx) : HandlerKeeps s (cmdReturn r t) := by
  obtain ⟨⟨h1, h2⟩, h3, h4⟩ := h
  refine ⟨⟨?_, by rw [cmdReturn_txq]; exact h2⟩, by rw [cmdReturn_cmd, cmdReturn_cmdLen]; exact h3, fun he => ?_⟩
  · rw [cmdReturn_frame, h1]
  · rw [cmdReturn_idle r (hc.trans he)]; exact h4 he

theorem configureStep_frame (arb data : BitrateName) (s : State) : (configureStep arb data s).1 = { s with
    timing := (configureStep arb data s).1.timing, bst := (configureStep arb data s).1.bst
    raised := (configureStep arb data s).1.raised, outputs := (configureStep arb data s).1.outputs } := by
  rcases configureStep_cases arb data s with ⟨_, e⟩ | ⟨_, _, e⟩ | ⟨a, d, _, _, _, ⟨_, e⟩ | ⟨_, e⟩⟩ <;> rw [e]

theorem startStep_frame (s : State) : (startStep s).1 = { s with
    bst := (startStep s).1.bst, irqEn := (startStep s).1.irqEn, notifArmed := (startStep s).1.notifArmed
    raised := (startStep s).1.raised, outputs := (startStep s).1.outputs } := by
  rcases startStep_cases s with ⟨_, e⟩ | ⟨_, _, _, e⟩ | ⟨_, o, e⟩ <;> rw [e]

theorem configureStep_keeps (arb data : BitrateName) (s : State) :
    HandlerKeeps s (configureStep arb data s).1 ∧ (configureStep arb data s).1.cmdctx = s.cmdctx := by
  rw [configureStep_frame]
  exact ⟨⟨⟨rfl, .inl rfl⟩, ⟨rfl, rfl⟩, fun _ => ⟨rfl, rfl⟩⟩, rfl⟩

theorem startStep_keeps (s : State) : HandlerKeeps s (startStep s).1 ∧ (startStep s).1.cmdctx = s.cmdctx := by
  rw [startStep_frame]
  exact ⟨⟨⟨rfl, .inl rfl⟩, ⟨rfl, rfl⟩, fun _ => ⟨rfl, rfl⟩⟩, rfl⟩

theorem sendStep2_keeps (cmd : Bool) (s : State) : HandlerKeeps s (sendStep2 cmd s) := by
  rw [sendStep2_eq]
  exact HandlerKeeps.return _ ⟨⟨rfl, .inl rfl⟩, ⟨rfl, rfl⟩, fun _ => ⟨rfl, rfl⟩⟩ rfl

theorem sendStep1_keeps (m : CanMessage) (cmd : Bool) (s : State) : HandlerKeeps s (sendStep1 m cmd s) := by
  rcases sendStep1_cases m cmd s with ⟨_, _, e⟩ | ⟨_, _, e⟩ | ⟨_, e⟩ <;> rw [e]
  · rw [sendStep2_eq]
    exact HandlerKeeps.return _ ⟨⟨rfl, .inr ⟨m, rfl⟩⟩, ⟨rfl, rfl⟩, fun _ => ⟨rfl, rfl⟩⟩ rfl
  · exact ⟨⟨rfl, .inr ⟨m, rfl⟩⟩, ⟨rfl, rfl⟩, fun _ => ⟨rfl, rfl⟩⟩
  · exact HandlerKeeps.return _ ⟨⟨rfl, .inl rfl⟩, ⟨rfl, rfl⟩, fun _ => ⟨rfl, rfl⟩⟩ rfl

theorem stopStep1_keeps (cmd : Bool) (s : State) : HandlerKeeps s (stopStep1 cmd s) := ⟨⟨rfl, .inl rfl⟩, ⟨rfl, rfl⟩, fun _ => ⟨rfl, rfl⟩⟩

theorem stopStep2_keeps (cmd : Bool) (s : State) : HandlerKeeps s (stopStep2 cmd s) := ⟨⟨rfl, .inl rfl⟩, ⟨rfl, rfl⟩, fun _ => ⟨rfl, rfl⟩⟩

theorem stopStep3_keeps (cmd : Bool) (s : State) : HandlerKeeps s (stopStep3 cmd s) := by
  rw [stopStep3_eq]
  exact HandlerKeeps.return _ ⟨⟨rfl, .inl rfl⟩, ⟨rfl, rfl⟩, fun _ => ⟨rfl, rfl⟩⟩ rfl

theorem ignoreCommand_keeps (cause : InvalidCause) (s : State) : HandlerKeeps s (ignoreCommand cause s) :=
  HandlerKeeps.return _ ⟨⟨rfl, .inl rfl⟩, ⟨rfl, rfl⟩, fun _ => ⟨rfl, rfl⟩⟩ rfl

theorem connectStartStep_keeps (s : State) : HandlerKeeps s (connectStartStep s) :=
  HandlerKeeps.return _ (startStep_keeps s).1 (startStep_keeps s).2

theorem connectBody_keeps (param : Byte) (s : State) : HandlerKeeps s (connectBody param s) := by
  rcases connectBody_cases param s with ⟨_, e⟩ | ⟨_, x, hx, e⟩ | ⟨_, x, hx, e⟩ <;> rw [e]
  · exact ⟨⟨rfl, .inl rfl⟩, ⟨rfl, rfl⟩, fun _ => ⟨rfl, rfl⟩⟩
  · have hk := configureStep_keeps s.cfg.defaultArb s.cfg.defaultData s
    rw [hx] at hk
    obtain ⟨⟨⟨h1, h2⟩, h3, h4⟩, _⟩ := hk
    simp only at h1 h2 h3 h4
    exact ⟨⟨by rw [h1], h2⟩, h3, h4⟩
  · have hk := configureStep_keeps s.cfg.defaultArb s.cfg.defaultData s
    rw [hx] at hk
    exact HandlerKeeps.return _ hk.1 hk.2

theorem canSendBody_keeps (ident : BitVec 32) (data : List Byte) (s : State) : HandlerKeeps s (canSendBody ident data s) := by
  rcases canSendBody_cases ident data s with ⟨_, e⟩ | ⟨ty, id, _, e⟩ <;> rw [e]
  · exact ignoreCommand_keeps _ s
  · exact sendStep1_keeps _ _ s

theorem commandBody_keeps (cmd : Command) (s : State) : HandlerKeeps s (commandBody cmd s) := by
  cases cmd with
  | connect p => exact connectBody_keeps p s
  | canSend ident data => exact canSendBody_keeps ident data s
  | unknown id rest => exact ignoreCommand_keeps _ s

theorem dispatchBody_keeps {n : Nat} (h : dispatchBody n s = .next t) : HandlerKeeps s t := by
  rcases dispatchBody_cases n s with ⟨_, e⟩ | ⟨p, cause, _, _, e⟩ | ⟨p, cmd, _, _, e⟩ <;> rw [e] at h <;> cases h
  · exact ignoreCommand_keeps _ s
  · exact commandBody_keeps _ s

/-- An acceptance keeps all but the command buffer's cells and what the command writes (R153). -/
theorem acceptFrame_keeps {p : List Byte} (h : acceptFrame p s = .next t) : CmdKeeps s t ∧ t.cmd = s.cmd.writeSeq 0 p ∧ t.cmdLen = p.length := by
  rcases acceptFrame_cases p s with ⟨_, e⟩ | ⟨_, e⟩ <;> rw [e] at h
  · cases h
  · obtain ⟨⟨h1, h2⟩, h3, _⟩ := dispatchBody_keeps h
    exact ⟨⟨by rw [h1], h2⟩, h3⟩

theorem scanReject_keeps (o : ScanOutcome) (s : State) : CmdKeeps s (scanReject o s) := by
  rcases scanReject_cases o s with e | ⟨_, c, e⟩ <;> rw [e] <;> exact ⟨rfl, .inl rfl⟩

theorem scanStep_keeps (h : scanStep s = .next t) : CmdKeeps s t := by
  rcases scanStep_cases s with ⟨_, e⟩ | ⟨bs, o, _, _, e⟩ | ⟨bs, seq, p, _, _, e⟩ <;> rw [e] at h
  · cases h
  · cases h; exact scanReject_keeps o s
  · exact (acceptFrame_keeps h).1

theorem processStep_keeps {rest : List CmdFrame} (h : processStep rest s = .next t) : CmdKeeps s t := by
  rcases processStep_cases rest s with ⟨_, e⟩ | ⟨bs, o, _, _, e⟩ | ⟨bs, seq, p, _, _, e⟩ <;> rw [e] at h
  · cases h
  · cases h
    obtain ⟨h1, h2⟩ := scanReject_keeps o s
    exact ⟨by rw [h1], h2⟩
  · obtain ⟨h1, h2⟩ := (acceptFrame_keeps h).1
    exact ⟨by rw [h1], h2⟩

/-- Every further step of the command context. -/
theorem cmdResume_keeps (h : cmdResume s = .next t) : CmdKeeps s t := by
  have lift : ∀ {rest : List CmdFrame} {u : State}, HandlerKeeps { s with cmdctx := rest } u → CmdKeeps s u := by
    intro rest u hk
    exact ⟨by rw [hk.keeps.frame], hk.keeps.txq⟩
  rcases cmdResume_cases s with e | ⟨_, ⟨rest, _, _, e⟩ | ⟨len, plen, rest, _, e⟩ | ⟨rest, _, e⟩ | ⟨cmd, rest, _, e⟩ |
    ⟨cmd, rest, _, e⟩ | ⟨cmd, rest, _, e⟩⟩ <;> rw [e] at h
  · cases h; exact ⟨rfl, .inl rfl⟩
  · exact processStep_keeps h
  · cases h; exact (HandlerKeeps.return _ (HandlerKeeps.refl s) rfl).keeps
  · cases h; exact lift (connectStartStep_keeps _)
  · cases h; exact lift (sendStep2_keeps _ _)
  · cases h; exact lift (stopStep2_keeps _ _)
  · cases h; exact lift (stopStep3_keeps _ _)

end Sys2Proof.Machine
end

