-- ==== Sys2Proof/Laws/PerInstr.lean ====
section
/-! SUPPORT. Per instruction: the first byte of its encoding is the byte its row of the opcode table fixes. -/

namespace Sys2Proof.Laws.OpcodeByte

/-- In every build with sizes in range, byte 0 of the instruction's encoding is its row's `match` byte. -/
def Statement (i : Instr) : Prop := ∀ c : Config, c.sizesOk → (encode c i).bytes.head? = some i.matchByte

theorem frame (seq : Nat) (payload : List Byte) : Statement (.frame seq payload) := fun _ _ => rfl

theorem connect (param : Byte) : Statement (.connect param) := fun _ _ => rfl

theorem canSend (ident : BitVec 32) (data : List Byte) : Statement (.canSend ident data) := fun _ _ => rfl

theorem unknown (id : Byte) (rest : List Byte) : Statement (.unknown id rest) := fun _ _ => rfl

theorem reportClassicStd (ident : BitVec 32) (data : List Byte) : Statement (.reportClassicStd ident data) := fun _ _ => rfl

theorem reportClassicExt (ident : BitVec 32) (data : List Byte) : Statement (.reportClassicExt ident data) := fun _ _ => rfl

theorem reportFdStd (ident : BitVec 32) (data : List Byte) : Statement (.reportFdStd ident data) := fun _ _ => rfl

theorem reportFdExt (ident : BitVec 32) (data : List Byte) : Statement (.reportFdExt ident data) := fun _ _ => rfl

theorem reportFirstClassicStd (ident : BitVec 32) (nbytes : Byte) (data : List Byte) : Statement (.reportFirstClassicStd ident nbytes data) := fun _ _ => rfl

theorem reportFirstClassicExt (ident : BitVec 32) (nbytes : Byte) (data : List Byte) : Statement (.reportFirstClassicExt ident nbytes data) := fun _ _ => rfl

theorem reportFirstFdStd (ident : BitVec 32) (nbytes : Byte) (data : List Byte) : Statement (.reportFirstFdStd ident nbytes data) := fun _ _ => rfl

theorem reportFirstFdExt (ident : BitVec 32) (nbytes : Byte) (data : List Byte) : Statement (.reportFirstFdExt ident nbytes data) := fun _ _ => rfl

theorem reportCont (offset : Byte) (data : List Byte) : Statement (.reportCont offset data) := fun _ _ => rfl

theorem keepAlive : Statement .keepAlive := by
  intro c h
  have hp : 0 < c.pkt := by have := h.2.2.1; omega
  obtain ⟨n, hn⟩ : ∃ n, c.pkt = n + 1 := ⟨c.pkt - 1, by omega⟩
  simp [encode, onWire, hn, List.replicate_succ, Instr.matchByte]

theorem init (initOk : Bool) : Statement (.init initOk) := fun _ _ => rfl

theorem ingress (transfer : List Byte) : Statement (.ingress transfer) := fun _ _ => rfl

theorem receive (bytes : List Byte) : Statement (.receive bytes) := fun _ _ => rfl

theorem process : Statement .process := fun _ _ => rfl

theorem scan : Statement .scan := fun _ _ => rfl

theorem formatFrame (call : FormatCall) : Statement (.formatFrame call) := fun _ _ => rfl

theorem dispatch (n : Nat) : Statement (.dispatch n) := fun _ _ => rfl

theorem configure (arb : BitrateName) (data : BitrateName) : Statement (.configure arb data) := fun _ _ => rfl

theorem start : Statement .start := fun _ _ => rfl

theorem stop : Statement .stop := fun _ _ => rfl

theorem send (m : CanMessage) : Statement (.send m) := fun _ _ => rfl

theorem rxIsr (m : CanMessage) : Statement (.rxIsr m) := fun _ _ => rfl

theorem txeIsr : Statement .txeIsr := fun _ _ => rfl

theorem taskWait : Statement .taskWait := fun _ _ => rfl

theorem taskTx : Statement .taskTx := fun _ _ => rfl

theorem taskRx : Statement .taskRx := fun _ _ => rfl

theorem report (m : CanMessage) : Statement (.report m) := fun _ _ => rfl

theorem emit (pkt : List Byte) (available : Bool) : Statement (.emit pkt available) := fun _ _ => rfl

theorem transportReady : Statement .transportReady := fun _ _ => rfl

end Sys2Proof.Laws.OpcodeByte
end

