-- ==== Sys2Proof/Tests/Slice0.lean ====
section
/-! SUPPORT. The model's own tests: every constructor's encoding, the well-formedness checks, single operations on the vectors of `spec/95_test_vectors.md` (named V-S and V-D in the comments; the expected values are that file's), and for every statement with hypotheses a witness that meets them. -/

namespace Sys2Proof.Tests

open Sys2Proof Sys2Proof.Machine

/-! ### Helpers -/

def rom0 : BitrateTuple := { prescaler := 1, syncJumpWidth := 2, timeSegment1 := 3, timeSegment2 := 4 }
def rom1 : BitrateTuple := { prescaler := 5, syncJumpWidth := 6, timeSegment1 := 7, timeSegment2 := 8 }

/-- The vectors' build with a given ring size. -/
def cfg (cap : Nat) : Config := { Config.build with cap := cap, cmdMax := cap, bitrateRom := [(0, rom0), (1, rom1)] }

/-- A ring that holds exactly these unread bytes from index `rd` on. -/
def ringOf (c : Config) (rd : Nat) (bs : List Byte) : State :=
  { State.resetWith c with ring := Memory.writeRing c.cap [] rd bs, rd := rd, wr := (rd + bs.length) % c.cap }

/-- A command buffer that holds these bytes. -/
def cmdOf (c : Config) (bs : List Byte) : State := { State.resetWith c with cmd := Memory.writeSeq [] 0 bs, cmdLen := bs.length }

/-- FORMAT_FRAME's operands: a buffer of two-byte fields, the payload at offset 5, with these bytes behind it. -/
def call (p tail : List Byte) : FormatCall := { buf := List.replicate 5 0xEE ++ p ++ tail, n := p.length }

/-- The build with ATOMIC_OPS = on. -/
def atomic (cap : Nat) : Config := { cfg cap with atomicOps := true }

/-- The bridge STARTED, as after a successful CONFIGURE and START. -/
def started (c : Config) : State :=
  { State.resetWith c with
    bst := .started, timing := some { arbitration := rom0, dataPhase := rom1 }, irqEn := true, notifArmed := true }

/-- A field of the next state. -/
def got {α : Type} (r : Res) (f : State → α) : Option α :=
  match r with
  | .next s => some (f s)
  | _ => none

/-- A field after a handler's further steps. -/
def gotRun {α : Type} (r : Res) (f : State → α) : Option α :=
  match r with
  | .next s => got (runCmd 2 s) f
  | _ => none

/-- The reason of a refusal. -/
def why (r : Res) : Option Refusal :=
  match r with
  | .refused e => some e
  | _ => none

/-- The reason of a fault. -/
def faultOf (r : Res) : Option Fault :=
  match r with
  | .fault e => some e
  | _ => none

/-- A message with these data bytes. -/
def msg (f : MsgFormat) (t : IdType) (id : BitVec 29) (code : BitVec 4) (data : List Byte) : CanMessage :=
  { identifier := id, idType := t, msgFormat := f, dlcCode := code, payload := data }

def m1 : CanMessage := msg .classic .standard 0x123 2 [0xAA, 0xBB]
def m2 : CanMessage := msg .classic .extended 0x18DAF110 3 [0x02, 0x10, 0x03]
def m3 : CanMessage := msg .fd .standard 0x100 0 []
def m4 : CanMessage := msg .fd .extended 0x1ABCDE 15 (List.replicate 64 0x11)

/-- Not well formed: a classic code above 8. -/
def mBad : CanMessage := msg .classic .standard 0x123 9 (List.replicate 12 0)

/-- The build of Config, sizes only, is in range. -/
theorem test_build_wf : (cfg 64).wf ∧ Config.build.sizesOk := by decide

/-! ### Decoding: one word per constructor, written out from the spec's encodings -/

abbrev dec (f : WireFormat) (bs : List Byte) : Except DecodeError Instr := decode (cfg 64) (onWire f bs)
abbrev decOp (sel : Byte) (a : OpArgs) : Except DecodeError Instr := decode (cfg 64) { wireFormat := .op, bytes := [sel], args := a }

/-- R101, V-D18. -/
theorem test_decode_frame : dec .frame [0xFF, 0x08, 0x00, 0x00, 0x00, 0x01, 0x01, 0xF7] = .ok (.frame 0 [0x01, 0x01]) := by decide

/-- R101, V-D24, V-S7: the four-byte profile. -/
theorem test_decode_frame_w4 : decode { cfg 64 with w := .four } (onWire .frame [0xFF, 0x0C, 0, 0, 0, 0, 0, 0, 0, 0x01, 0x01, 0xF3]) = .ok (.frame 0 [0x01, 0x01]) := by decide

/-- R112. -/
theorem test_decode_connect : dec .cmdH2D [0x01, 0x02] = .ok (.connect 0x02) := by decide

/-- R113, R114: both identifier widths. -/
theorem test_decode_canSend :
    dec .cmdH2D [0x10, 0x21, 0x03, 0x08, 0, 1, 2, 3, 4, 5, 6, 7] = .ok (.canSend 0x321 [0, 1, 2, 3, 4, 5, 6, 7]) ∧
    decode { cfg 64 with idw := .four } (onWire .cmdH2D [0x10, 0x10, 0xF1, 0xDA, 0x18, 0x02, 0xDE, 0xAD]) = .ok (.canSend 0x18DAF110 [0xDE, 0xAD]) := by decide

/-- R123, V-D48. -/
theorem test_decode_unknown : dec .cmdH2D [0x20, 0x23, 0x01, 0x00, 0x00, 0x00] = .ok (.unknown 0x20 [0x23, 0x01, 0x00, 0x00, 0x00]) := by decide

/-- R181 to R183, R186: V-D50, V-D36, V-D39, V-D40, V-D41. -/
theorem test_decode_invalid :
    dec .cmdH2D [] = .error (.invalidParams .emptyPayload) ∧
    dec .cmdH2D [0x01] = .error (.invalidParams .lengthMismatch) ∧
    dec .cmdH2D [0x10, 0x21, 0x03, 0x09, 0, 1, 2, 3, 4, 5, 6, 7, 8] = .error (.invalidParams .lengthMismatch) ∧
    dec .cmdH2D [0x10, 0x21, 0x03, 0x09, 0, 1, 2, 3, 4, 5, 6, 7] = .error (.invalidParams .dlcTooLarge) ∧
    dec .cmdH2D [0x10, 0x21, 0x03, 0x08, 0, 1, 2, 3, 4, 5, 6] = .error (.invalidParams .lengthMismatch) := by decide

/-- R115, R116: V-D13, V-D65, V-D67. -/
theorem test_decode_reports :
    dec .cmdD2H [0x20, 0x23, 0x01, 0x00, 0x00, 0x02, 0xAA, 0xBB] = .ok (.reportClassicStd 0x123 [0xAA, 0xBB]) ∧
    dec .cmdD2H [0x21, 0x10, 0xF1, 0xDA, 0x18, 0x03, 0x02, 0x10, 0x03] = .ok (.reportClassicExt 0x18DAF110 [0x02, 0x10, 0x03]) ∧
    dec .cmdD2H [0x22, 0xFF, 0x07, 0x00, 0x00, 0x01, 0x10] = .ok (.reportFdStd 0x7FF [0x10]) ∧
    dec .cmdD2H [0x23, 0xFF, 0xFF, 0xFF, 0x1F, 0x00] = .ok (.reportFdExt 0x1FFFFFFF []) := by decide

/-- R117, V-D71, V-S9: `CAP1` is 52 in a 64-byte packet. -/
theorem test_decode_first :
    dec .cmdD2H ([0xA0, 0x23, 0x01, 0x00, 0x00, 0x40] ++ List.replicate 52 0x05) = .ok (.reportFirstClassicStd 0x123 0x40 (List.replicate 52 0x05)) ∧
    dec .cmdD2H ([0xA1, 0x23, 0x01, 0x00, 0x00, 0x40] ++ List.replicate 52 0x05) = .ok (.reportFirstClassicExt 0x123 0x40 (List.replicate 52 0x05)) ∧
    dec .cmdD2H ([0xA2, 0x56, 0x04, 0x00, 0x00, 0x40] ++ List.replicate 52 0x05) = .ok (.reportFirstFdStd 0x456 0x40 (List.replicate 52 0x05)) ∧
    dec .cmdD2H ([0xA3, 0xDE, 0xBC, 0x1A, 0x00, 0x40] ++ List.replicate 52 0x05) = .ok (.reportFirstFdExt 0x1ABCDE 0x40 (List.replicate 52 0x05)) := by decide

/-- R118, V-D71. -/
theorem test_decode_cont : dec .cmdD2H [0x24, 0x34, 0x34, 0x35, 0x36] = .ok (.reportCont 0x34 [0x34, 0x35, 0x36]) := by decide

/-- R120. -/
theorem test_decode_keepAlive : dec .packet (List.replicate 64 0) = .ok .keepAlive ∧ dec .packet (List.replicate 63 0) = .error .notKeepAlive := by decide

/-- R128: the nineteen op-select indices. -/
theorem test_decode_ops :
    decOp 0x00 { OpArgs.none with flag := true } = .ok (.init true) ∧ decOp 0x01 { OpArgs.none with bytes := [7] } = .ok (.ingress [7]) ∧
    decOp 0x02 { OpArgs.none with bytes := [7] } = .ok (.receive [7]) ∧ decOp 0x03 OpArgs.none = .ok .process ∧
    decOp 0x04 OpArgs.none = .ok .scan ∧ decOp 0x05 { OpArgs.none with bytes := [7, 8], len := 1 } = .ok (.formatFrame { buf := [7, 8], n := 1 }) ∧
    decOp 0x06 { OpArgs.none with len := 3 } = .ok (.dispatch 3) ∧
    decOp 0x10 { OpArgs.none with arb := 1, dataRate := 2 } = .ok (.configure 1 2) ∧ decOp 0x11 OpArgs.none = .ok .start ∧
    decOp 0x12 OpArgs.none = .ok .stop ∧ decOp 0x13 { OpArgs.none with msg := m1 } = .ok (.send m1) ∧
    decOp 0x20 { OpArgs.none with msg := m1 } = .ok (.rxIsr m1) ∧ decOp 0x21 OpArgs.none = .ok .txeIsr ∧
    decOp 0x30 OpArgs.none = .ok .taskWait ∧ decOp 0x31 OpArgs.none = .ok .taskTx ∧ decOp 0x32 OpArgs.none = .ok .taskRx ∧
    decOp 0x40 { OpArgs.none with msg := m1 } = .ok (.report m1) ∧
    decOp 0x41 { OpArgs.none with bytes := [7], flag := true } = .ok (.emit [7] true) ∧ decOp 0x42 OpArgs.none = .ok .transportReady ∧
    decOp 0x43 OpArgs.none = .error .unknownOpSelect := by decide

/-- The table's words: an encoding the hardware has is preferred to an op-select index. -/
theorem test_table_words :
    decodeTableWord 8 0x01 = some (.connect 0) ∧ decodeTableWord 8 0x10 = some (.canSend 0 []) ∧
    decodeTableWord 8 0x20 = some (.reportClassicStd 0 []) ∧ decodeTableWord 8 0xA3 = some (.reportFirstFdExt 0 0 (List.replicate 52 0)) ∧
    decodeTableWord 8 0x05 = some (.formatFrame { buf := List.replicate 64 0, n := 0 }) ∧ decodeTableWord 8 0x24 = some (.reportCont 0 []) ∧ decodeTableWord 8 0x04 = some .scan ∧ decodeTableWord 8 0x07 = some (.unknown 0x07 []) ∧
    decodeTableWord 8 0xFF = none ∧ decodeTableWord 8 0x42 = some .transportReady := by decide

/-- A placed word is the next step's instruction: STOP's first step, the first step of CONNECT 0, SCAN on an empty ring. -/
theorem test_placed_words :
    got (step (State.reset.withFetchWord 8 0x12)) (fun t => t.cmdctx) = some [.stop2 false] ∧
    got (step (State.reset.withFetchWord 8 0x01)) (fun t => t.cmdctx) = some [.stop2 true] ∧
    got (step (State.reset.withFetchWord 8 0x04)) (fun t => t.ret) = some (.outcome .stopEmpty) := by decide

/-- A whole frame placed as one word lies in the ring at RD and is accepted (V-D47). -/
theorem test_placed_frame :
    got (step (State.reset.withFetchWord 56 0xF80200000007FF)) (fun t => (t.ret, t.rd)) = some (.outcome (.accept 1), 7) := by decide

/-! ### Well-formedness: each check refuses an ill-formed term -/

theorem test_wf_config :
    ¬ ({ cfg 6 with cap := 6 }).sizesOk ∧ ¬ (cfg 70000).sizesOk ∧ ¬ ({ cfg 64 with pkt := 19 }).sizesOk ∧
    ¬ ({ cfg 64 with pkt := 41 }).sizesOk ∧ ¬ ({ cfg 64 with egqCap := 0 }).sizesOk ∧ ¬ ({ cfg 64 with cmdMax := 56 }).payloadFits ∧
    ({ cfg 64 with cmdMax := 57 }).payloadFits ∧ ({ cfg 64 with pkt := 42 }).sizesOk ∧ (cfg 7).sizesOk := by decide

theorem test_wf_message :
    ¬ mBad.wf ∧ ¬ (msg .fd .standard 0x800 0 []).wf ∧ ¬ (msg .fd .standard 0x7FF 9 (List.replicate 9 0)).wf ∧
    (msg .fd .standard 0x7FF 9 (List.replicate 12 0)).wf ∧ (msg .classic .extended 0x1FFFFFFF 8 (List.replicate 8 0)).wf := by decide

theorem test_wf_frame :
    Instr.wf (cfg 64) (.frame 0x10000 []) = false ∧ Instr.wf (cfg 64) (.frame 0 (List.replicate 58 0)) = false ∧
    Instr.wf (cfg 64) (.frame 0xFFFF (List.replicate 57 0)) = true := by decide

theorem test_wf_commands :
    Instr.wf (cfg 64) (.canSend 0x10000 []) = false ∧ Instr.wf (cfg 64) (.canSend 0 (List.replicate 9 0)) = false ∧
    Instr.wf (cfg 64) (.unknown 0x01 []) = false ∧ Instr.wf (cfg 64) (.unknown 0x10 []) = false ∧
    Instr.wf (cfg 64) (.canSend 0xFFFF (List.replicate 8 0)) = true := by decide

theorem test_wf_reports :
    Instr.wf (cfg 64) (.reportClassicStd 0x800 []) = false ∧ Instr.wf (cfg 64) (.reportClassicExt 0x20000000 []) = false ∧
    Instr.wf (cfg 64) (.reportClassicStd 0 (List.replicate 9 0)) = false ∧ Instr.wf (cfg 64) (.reportFdStd 0 (List.replicate 9 0)) = false ∧
    Instr.wf (cfg 64) (.reportFdExt 0 (List.replicate 64 0)) = false ∧ Instr.wf (cfg 64) (.reportFdExt 0x1FFFFFFF (List.replicate 48 0)) = true := by decide

theorem test_wf_fragments :
    Instr.wf (cfg 64) (.reportFirstFdStd 0 48 (List.replicate 52 0)) = false ∧ Instr.wf (cfg 64) (.reportFirstFdStd 0 63 (List.replicate 52 0)) = false ∧
    Instr.wf (cfg 64) (.reportFirstFdExt 0 64 (List.replicate 51 0)) = false ∧ Instr.wf (cfg 64) (.reportFirstFdStd 0x800 64 (List.replicate 52 0)) = false ∧
    Instr.wf (cfg 64) (.reportCont 51 [0]) = false ∧ Instr.wf (cfg 64) (.reportCont 52 []) = false ∧
    Instr.wf (cfg 64) (.reportCont 52 (List.replicate 13 0)) = false ∧ Instr.wf (cfg 64) (.reportCont 52 (List.replicate 12 0)) = true ∧
    Instr.wf (cfg 64) (.reportFirstFdExt 0 64 (List.replicate 52 0)) = true := by decide

theorem test_wf_operations :
    Instr.wf (cfg 64) (.formatFrame { buf := List.replicate 7 0, n := 2 }) = false ∧
    Instr.wf (cfg 64) (.formatFrame { buf := List.replicate 65537 0, n := 65530 }) = false ∧ Instr.wf (cfg 64) (.dispatch 65) = false ∧
    Instr.wf (cfg 64) (.send mBad) = false ∧ Instr.wf (cfg 64) (.rxIsr mBad) = false ∧ Instr.wf (cfg 64) (.report mBad) = false ∧
    Instr.wf (cfg 64) (.emit [0] true) = false ∧ Instr.wf (cfg 64) (.dispatch 64) = true ∧ Instr.wf (cfg 64) (.send m1) = true := by
  simp only [Instr.wf, List.length_replicate]; decide

/-! ### Single operations on the spec's vectors -/

/-- V-D1: a write that wraps. -/
theorem test_receive_wraps :
    got (exec (.receive [0x01, 0x02, 0x03]) { State.resetWith (cfg 8) with rd := 6, wr := 6 })
      (fun t => (t.ring.read 6, t.ring.read 7, t.ring.read 0, t.wr, t.rd, t.ret)) =
    some (some 0x01, some 0x02, some 0x03, 1, 6, .bool true) := by decide

/-- V-D3 and V-D5: nine bytes into a ring of eight, both profiles. -/
theorem test_receive_full :
    got (exec (.receive [1, 2, 3, 4, 5, 6, 7, 8, 9]) { State.resetWith (cfg 8) with rd := 2, wr := 2 }) (fun t => (t.wr, t.ret, t.raised)) =
      some (1, .bool false, [.backpressure (.ringFull 7)]) ∧
    got (exec (.receive [1, 2, 3, 4, 5, 6, 7, 8, 9]) { State.resetWith { cfg 8 with fullPolicy := .overwrite } with rd := 2, wr := 2 })
      (fun t => (t.wr, t.rd, t.unread, t.raised)) =
      some (3, 4, some [3, 4, 5, 6, 7, 8, 9], [.backpressure .ringOverwrite, .backpressure .ringOverwrite]) := by decide

/-- V-D16 and V-D12: a bad sum and a length equal to the capacity. -/
theorem test_scan_skips :
    got (exec .scan (ringOf (cfg 16) 0 [0xFF, 0x08, 0, 0, 0, 1, 1, 0xF8])) (fun t => (t.ret, t.rd, t.raised)) =
      some (.outcome .skipBadSum, 1, [.streamCorruption .badChecksum]) ∧
    got (exec .scan (ringOf (cfg 16) 0 [0xFF, 0x10, 0, 0, 0, 0xF1])) (fun t => (t.ret, t.rd, t.raised)) =
      some (.outcome .skipBadLen, 1, [.streamCorruption .badLength]) := by decide

/-- V-D21: the longest legal frame, straddling the wrap; its payload is an unknown command. -/
theorem test_scan_accepts_wrapped :
    got (exec .scan (ringOf (cfg 16) 10 [0xFF, 0x0F, 0, 0, 0, 2, 2, 3, 4, 5, 6, 7, 8, 9, 0xC4])) (fun t => (t.ret, t.rd, t.cmd.readSeq 0 9)) =
    some (.outcome (.accept 9), 9, some [2, 2, 3, 4, 5, 6, 7, 8, 9]) := by decide

/-- V-D33: CONNECT 1 in a frame starts the bridge, and RD advances when the handler has returned. -/
theorem test_frame_connect :
    gotRun (exec (.frame 0 [0x01, 0x01]) (ringOf (cfg 64) 0 [0xFF, 0x08, 0, 0, 0, 1, 1, 0xF7])) (fun t => (t.bst, t.rd, t.irqEn, t.ret)) =
    some (.started, 8, true, .outcome (.accept 2)) := by decide

/-- V-D22: the payload is longer than the command buffer. -/
theorem test_frame_faults :
    faultOf (exec (.frame 0 [0x01, 0x01]) (ringOf { cfg 16 with cmdMax := 1 } 0 [0xFF, 0x08, 0, 0, 0, 1, 1, 0xF7])) = some .cmdBufOverrun := by decide

/-- V-D26: PROCESS on a stop changes nothing; V-D8: it goes on after a skip. -/
theorem test_process :
    got (exec .process (ringOf (cfg 16) 0 [0xFF, 0x08, 0, 0, 0, 1, 1])) (fun t => (t.ret, t.rd, t.cmdctx)) = some (.outcome .stopIncomplete, 0, []) ∧
    got (exec .process (ringOf (cfg 16) 0 [0x00])) (fun t => (t.ret, t.rd, t.cmdctx)) = some (.outcome .skipNonTag, 1, [.process]) := by decide

/-- V-D32: the length prefix, exact and clipped. -/
theorem test_ingress_prefix :
    got (exec (.ingress [0x03, 0xFF, 0x06, 0x00, 0xAA]) (State.resetWith { cfg 64 with lenPrefix := true })) (fun t => (t.unread, t.cmdctx)) =
      some (some [0xFF, 0x06, 0x00], [.process]) ∧
    got (exec (.ingress [0x09, 0xFF, 0x06, 0x00]) (State.resetWith { cfg 64 with lenPrefix := true })) (fun t => t.unread) =
      some (some [0xFF, 0x06, 0x00]) := by decide

/-- V-D28 and V-D29: the sequence counter wraps, a zero checksum, and the bytes past the frame stay (R160). -/
theorem test_formatFrame :
    got (exec (.formatFrame (call [0x01, 0x01] [0xEE])) { State.resetWith (cfg 64) with seq := 0xFFFF }) (fun t => (t.buf, t.seq, t.ret)) =
      some ([0xFF, 0x08, 0x00, 0xFF, 0xFF, 0x01, 0x01, 0xF9], 0, .length 8) ∧
    got (exec (.formatFrame (call [0xFA] [0xEE, 0x33])) (State.resetWith (cfg 64))) (fun t => (t.buf, t.seq)) =
      some ([0xFF, 0x07, 0x00, 0x00, 0x00, 0xFA, 0x00, 0x33], 1) := by decide

/-- V-D40 and V-D37. -/
theorem test_dispatch :
    got (exec (.dispatch 12) (cmdOf (cfg 64) [0x10, 0x21, 0x03, 0x09, 0, 1, 2, 3, 4, 5, 6, 7])) (fun t => (t.ret, t.raised, t.txq)) =
      some (.status .ignored, [.invalidParams .dlcTooLarge], []) ∧
    gotRun (exec (.dispatch 4) (cmdOf (cfg 64) [0x10, 0x21, 0x03, 0x00])) (fun t => (t.ret, t.txq, t.notif.txReady)) =
      some (.status .done, [msg .classic .standard 0x321 0 []], true) := by decide

/-- V-D34: CONNECT 2 stops a started bridge; V-D52: a name that is not in the table. -/
theorem test_connect :
    gotRun (exec (.connect 0x02) (started (cfg 64))) (fun t => (t.bst, t.irqEn, t.notifArmed, t.ret)) = some (.configured, false, false, .status .done) ∧
    got (exec (.connect 0x01) (State.resetWith { cfg 64 with defaultArb := 9 })) (fun t => (t.bst, t.timing, t.raised, t.ret)) =
      some (.ready, none, [.configFailure .badTimingEntry], .status .done) := by decide

/-- V-D43 and V-D45: an identifier out of range, and an extended one. -/
theorem test_canSend :
    got (exec (.canSend 0x800 [0xAB]) (State.resetWith (cfg 64))) (fun t => (t.ret, t.raised, t.txq)) =
      some (.status .ignored, [.invalidParams .idOutOfRange], []) ∧
    got (exec (.canSend 0x18DAF110 [0xDE, 0xAD]) (State.resetWith { cfg 64 with idw := .four })) (fun t => t.txq) =
      some [msg .classic .extended 0x18DAF110 2 [0xDE, 0xAD]] := by decide

/-- V-D47. -/
theorem test_unknown :
    got (exec (.unknown 0x02 []) (State.resetWith (cfg 64))) (fun t => (t.ret, t.raised, t.txq, t.bst)) =
    some (.status .ignored, [.invalidParams .unknownCommand], [], .ready) := by decide

/-- V-S8 and V-D54: CONFIGURE while started, and a refused call. -/
theorem test_configure :
    got (exec (.configure 1 0) (started (cfg 64))) (fun t => (t.ret, t.timing, t.bst, t.raised)) =
      some (.bool false, some { arbitration := rom0, dataPhase := rom1 }, .started, [.configFailure .notIdle]) ∧
    got (exec (.configure 1 0) (State.resetWith (cfg 64))) (fun t => (t.ret, t.timing, t.bst)) =
      some (.bool true, some { arbitration := rom1, dataPhase := rom0 }, .configured) := by decide

/-- V-D53 and V-D54: START in READY, and with `ctrl.arm_notifications` false. -/
theorem test_start :
    got (exec .start (State.resetWith (cfg 64))) (fun t => (t.ret, t.bst, t.raised)) = some (.bool false, .ready, [.configFailure .badState]) ∧
    got (exec .start { State.resetWith (cfg 64) with bst := .configured, env := { acceptingEnv with armOk := false } })
      (fun t => (t.ret, t.bst, t.irqEn, t.notifArmed)) = some (.bool false, .configured, false, false) := by decide

/-- V-D54: STOP changes the state even where `ctrl.stop` fails; R349: the line goes off first. -/
theorem test_stop :
    gotRun (exec .stop { started (cfg 64) with env := { acceptingEnv with stopOk := false } }) (fun t => (t.ret, t.bst, t.irqEn, t.notifArmed)) =
      some (.bool false, .configured, false, false) ∧
    got (exec .stop (started (cfg 64))) (fun t => (t.irqEn, t.notifArmed, t.bst)) = some (false, true, .started) := by decide

/-- V-S5: the fourth SEND fails; V-D55: no signal while a transmission is in flight. -/
theorem test_send :
    got (exec (.send m2) { State.resetWith (cfg 64) with txq := [m1, m1, m1] }) (fun t => (t.ret, t.txq, t.notif.txReady)) =
      some (.bool false, [m1, m1, m1], false) ∧
    gotRun (exec (.send m1) { State.resetWith (cfg 64) with txInflight := true }) (fun t => (t.ret, t.txq, t.notif)) =
      some (.bool true, [m1], { txReady := false, rxAvail := false }) := by decide

/-- V-D56: the fourth message is lost, the signal is given; disabled, nothing changes. -/
theorem test_rxIsr :
    got (exec (.rxIsr m4) { started (cfg 64) with rxq := [m1, m2, m3] }) (fun t => (t.rxq, t.notif.rxAvail, t.raised)) =
      some ([m1, m2, m3], true, [.backpressure .rxQueueFull]) ∧
    got (exec (.rxIsr m4) { started (cfg 64) with irqEn := false }) (fun t => (t.rxq, t.notif.rxAvail, t.outputs)) = some ([], false, []) := by decide

/-- V-D57. -/
theorem test_txeIsr :
    got (exec .txeIsr { started (cfg 64) with notif := { txReady := false, rxAvail := true }, txq := [m1], txInflight := true })
      (fun t => (t.notif, t.txq, t.txInflight)) = some ({ txReady := true, rxAvail := true }, [m1], true) := by decide

/-- V-D58: TASK_WAIT with both bits set; with ATOMIC_OPS on the same step submits and BRIDGE is back at WAIT (V-D62's order with TASK_TX as one step). -/
theorem test_taskWait :
    got (exec .taskWait { State.resetWith (cfg 64) with notif := { txReady := true, rxAvail := true } }) (fun t => (t.notif, t.bridge)) =
    some ({ txReady := false, rxAvail := false }, .tx1 { txReady := true, rxAvail := true }) ∧
    got (exec .taskWait { State.resetWith (atomic 64) with notif := { txReady := true, rxAvail := true }, txq := [m1, m2] })
      (fun t => (t.bridge, t.txInflight, t.outputs)) = some (.wait, true, [.ctrlSubmit m1]) := by decide

/-- V-D58: step T2 submits and goes on to RX; V-D59: an empty queue clears the flag. -/
theorem test_taskTx :
    got (exec .taskTx { State.resetWith (cfg 64) with txq := [m2], bridge := .tx2 { txReady := true, rxAvail := true } (some m1) })
      (fun t => (t.outputs, t.txInflight, t.bridge, t.txq)) = some ([.ctrlSubmit m1], true, .rx { txReady := true, rxAvail := true }, [m2]) ∧
    got (exec .taskTx { State.resetWith (cfg 64) with txInflight := true, bridge := .tx2 { txReady := true, rxAvail := false } none })
      (fun t => (t.outputs, t.txInflight, t.bridge)) = some ([], false, .wait) := by decide

/-- V-D60: an empty RXQ is no error; V-D61: one element is taken. -/
theorem test_taskRx :
    got (exec .taskRx { State.resetWith (cfg 64) with bridge := .rx { txReady := false, rxAvail := true } }) (fun t => (t.bridge, t.seq)) = some (.wait, 0) ∧
    got (exec .taskRx { State.resetWith (cfg 64) with rxq := [m1, m2], bridge := .rx { txReady := false, rxAvail := true } }) (fun t => t.rxq) = some [m2] := by decide

/-- V-D68: the sequence counter wraps; V-D71: the first fragment's packet. -/
theorem test_report :
    got (exec (.report (msg .classic .standard 0 8 (List.replicate 8 0xFF))) { State.resetWith (cfg 64) with seq := 0xFFFF })
      (fun t => (t.seq, t.bridge)) =
      some (0, .emit ([0xFF, 0x14, 0x00, 0xFF, 0xFF, 0x20, 0x00, 0x00, 0x00, 0x00, 0x08] ++ List.replicate 8 0xFF ++ [0xCF] ++ List.replicate 44 0) []) ∧
    got (exec (.report m4) { State.resetWith (cfg 64) with seq := 2 }) (fun t => (t.seq, t.buf.take 11, t.buf.length)) =
      some (3, [0xFF, 0x40, 0x00, 0x02, 0x00, 0xA3, 0xDE, 0xBC, 0x1A, 0x00, 0x40], 64) := by decide

/-- V-D13, V-D65 to V-D67: the four report rows' packets. -/
theorem test_report_rows :
    got (exec (.reportClassicStd 0x123 [0xAA, 0xBB]) (State.resetWith (cfg 64))) (fun t => t.buf) =
      some ([0xFF, 0x0E, 0x00, 0x00, 0x00, 0x20, 0x23, 0x01, 0x00, 0x00, 0x02, 0xAA, 0xBB, 0x48] ++ List.replicate 50 0) ∧
    got (exec (.reportClassicExt 0x18DAF110 [0x02, 0x10, 0x03]) { State.resetWith (cfg 64) with seq := 5 }) (fun t => t.buf) =
      some ([0xFF, 0x0F, 0x00, 0x05, 0x00, 0x21, 0x10, 0xF1, 0xDA, 0x18, 0x03, 0x02, 0x10, 0x03, 0xC1] ++ List.replicate 49 0) ∧
    got (exec (.reportFdStd 0x7FF [0x10, 0x11, 0x12, 0x13, 0x14, 0x15, 0x16, 0x17, 0x18, 0x19, 0x1A, 0x1B]) { State.resetWith (cfg 64) with seq := 6 }) (fun t => t.buf) =
      some ([0xFF, 0x18, 0x00, 0x06, 0x00, 0x22, 0xFF, 0x07, 0x00, 0x00, 0x0C, 0x10, 0x11, 0x12, 0x13, 0x14, 0x15, 0x16, 0x17, 0x18, 0x19, 0x1A, 0x1B, 0xAD] ++ List.replicate 40 0) ∧
    got (exec (.reportFdExt 0x1FFFFFFF []) { State.resetWith (cfg 64) with seq := 7 }) (fun t => t.buf) =
      some ([0xFF, 0x0C, 0x00, 0x07, 0x00, 0x23, 0xFF, 0xFF, 0xFF, 0x1F, 0x00, 0xAF] ++ List.replicate 52 0) := by decide

/-- R117 in a 42-byte packet (`CAP1` is 30), zero data; the sums by hand: 0xFF + 0x2A + id + 0x40. -/
theorem test_first_rows :
    got (exec (.reportFirstClassicStd 0 0x40 (List.replicate 30 0)) (State.resetWith { cfg 64 with pkt := 42 })) (fun t => t.buf) =
      some ([0xFF, 0x2A, 0x00, 0x00, 0x00, 0xA0, 0x00, 0x00, 0x00, 0x00, 0x40] ++ List.replicate 30 0 ++ [0xF7]) ∧
    got (exec (.reportFirstClassicExt 0 0x40 (List.replicate 30 0)) (State.resetWith { cfg 64 with pkt := 42 })) (fun t => t.buf.drop 41) = some [0xF6] ∧
    got (exec (.reportFirstFdStd 0 0x40 (List.replicate 30 0)) (State.resetWith { cfg 64 with pkt := 42 })) (fun t => t.buf.drop 41) = some [0xF5] ∧
    got (exec (.reportFirstFdExt 0 0x40 (List.replicate 30 0)) (State.resetWith { cfg 64 with pkt := 42 })) (fun t => t.buf.drop 41) = some [0xF4] := by decide

/-- V-D71's second packet; R261. -/
theorem test_cont_row :
    got (exec (.reportCont 0x34 [0x34, 0x35, 0x36, 0x37, 0x38, 0x39, 0x3A, 0x3B, 0x3C, 0x3D, 0x3E, 0x3F]) { State.resetWith (cfg 64) with seq := 3 }) (fun t => t.buf.take 21) =
      some [0xFF, 0x14, 0x00, 0x03, 0x00, 0x24, 0x34, 0x34, 0x35, 0x36, 0x37, 0x38, 0x39, 0x3A, 0x3B, 0x3C, 0x3D, 0x3E, 0x3F, 0xE0, 0x00] ∧
    why (exec (.reportCont 0x34 [0x34]) (State.resetWith { cfg 64 with fragMode := .refuse })) = some .oversizedReport := by decide

/-- V-D73 and V-D74: the third packet is dropped; a direct write overtakes. -/
theorem test_emit :
    got (exec (.emit (List.replicate 64 7) false) { State.resetWith (cfg 64) with egq := [[1], [2]] }) (fun t => (t.egq, t.ret, t.raised)) =
      some ([[1], [2]], .bool false, [.backpressure .egressQueueFull]) ∧
    got (exec (.emit (List.replicate 64 7) true) { State.resetWith (cfg 64) with egq := [[1]] }) (fun t => (t.egq, t.outputs)) =
      some ([[1]], [.transportWrite (List.replicate 64 7)]) := by decide

/-- V-D73: the oldest packet is written; with none queued, the keep-alive packet or nothing. -/
theorem test_transportReady :
    got (exec .transportReady { State.resetWith (cfg 64) with egq := [[1], [2]] }) (fun t => (t.egq, t.outputs)) = some ([[2]], [.transportWrite [1]]) ∧
    got (exec .transportReady (State.resetWith (cfg 64))) (fun t => t.outputs) = some [] ∧
    got (exec .keepAlive (State.resetWith { cfg 64 with keepAlive := true })) (fun t => (t.outputs, t.seq)) =
      some ([.transportWrite (List.replicate 64 0)], 0) := by decide

/-- V-D75: both outcomes of INIT, and a halted block takes no step. -/
theorem test_init :
    got (exec (.init true) (State.beforeInit (cfg 64))) (fun t => (t.bst, t.inited, t.raised)) = some (.ready, true, []) ∧
    got (exec (.init false) (State.beforeInit (cfg 64))) (fun t => (t.bst, t.inited, t.raised)) = some (.halted, true, [.fatalInit]) ∧
    got (exec (.receive [1]) { State.resetWith (cfg 64) with bst := .halted }) (fun t => t.wr) = some 0 := by decide

/-- `s` where the next presented operation is called by `a`. -/
def calledBy (a : Agent) (s : State) : State := { s with env := { s.env with caller := a } }

/-- Another task's RECEIVE waits while the handler holds LOCK (R28, R312), and falls between two SCAN steps of a PROCESS (R80), where CMDCTX's own waits. -/
theorem test_receive_waits_for_lock :
    got (exec (.receive [1]) (calledBy .bridge { State.resetWith (cfg 64) with
      cmdctx := [.stop2 true, .scanReturn 8 2], lock := { owner := some .cmdctx, depth := 1 } })) (fun t => t.wr) = some 0 ∧
    got (exec (.receive [1]) (calledBy .bridge { State.resetWith (cfg 64) with cmdctx := [.process] })) (fun t => t.wr) = some 1 ∧
    got (exec (.receive [1]) { State.resetWith (cfg 64) with cmdctx := [.process] }) (fun t => t.wr) = some 0 := by decide

/-- A call from a wrong context is refused (R310): the parser's from interrupt context (R140), another agent's operation from a task or an interrupt; its own agent's is taken. -/
theorem test_wrong_context :
    why (runCalled (.receive []) (calledBy .isrTxe (State.resetWith (cfg 64)))) = some .wrongContext ∧
    why (runCalled (.formatFrame (call [] [0])) (calledBy .isrRx (State.resetWith (cfg 64)))) = some .wrongContext ∧
    why (runCalled .process (calledBy .bridge (State.resetWith (cfg 64)))) = some .wrongContext ∧
    why (runCalled (.send m1) (calledBy .isrTxe (State.resetWith (cfg 64)))) = some .wrongContext ∧
    why (runCalled (.report m1) (State.resetWith (cfg 64))) = some .wrongContext ∧
    why (runCalled .taskWait (calledBy .isrRx (started (cfg 64)))) = some .wrongContext ∧
    got (runCalled (.send m1) (State.resetWith (cfg 64))) (fun t => t.txq) = some [m1] ∧
    got (runCalled (.receive [1]) (calledBy .bridge (State.resetWith (cfg 64)))) (fun t => t.wr) = some 1 := by decide

/-- The handler may not call the parser (R352), and a message that is not well formed is refused (R262). -/
theorem test_refusals :
    why (exec .process { State.resetWith (cfg 64) with cmdctx := [.scanReturn 8 2] }) = some .wrongContext ∧
    why (exec (.receive []) { State.resetWith (cfg 64) with cmdctx := [.scanReturn 8 2] }) = some .wrongContext ∧
    why (exec (.report mBad) (State.resetWith (cfg 64))) = some .illFormedMessage ∧
    why (exec (.rxIsr mBad) (started (cfg 64))) = some .illFormedMessage ∧
    why (step { State.resetWith (cfg 64) with cfg := { cfg 64 with egqCap := 0 } }) = some .illFormedConfig ∧
    why (exec (.dispatch 1) (State.resetWith (cfg 64))) = some .unwrittenRead ∧
    why (exec (.dispatch 3) { cmdOf (cfg 64) [0x01, 0x01, 0x00] with cmdLen := 2 }) = some .unwrittenRead ∧
    why (exec (.formatFrame { buf := List.replicate 7 0, n := 2 }) (State.resetWith (cfg 64))) = some .operandOutOfRange ∧
    got (exec (.formatFrame (call [] [0])) { State.resetWith (cfg 64) with bridge := .second [[0x24]] }) (fun t => t.seq) = some 0 ∧
    got (exec (.formatFrame (call [] [0])) { State.resetWith (cfg 64) with bridge := .emit [] [] }) (fun t => t.seq) = some 1 := by decide

/-! ### Witnesses: for every statement with hypotheses, states and operands that meet them, clause by clause -/

/-- An idle block with a good command buffer of 64 bytes. -/
def idle : State := State.resetWith (cfg 64)

/-- A frame of CONNECT 1 and one byte behind it. -/
def connectFrame : List Byte := [0xFF, 0x08, 0x00, 0x00, 0x00, 0x01, 0x01, 0xF7, 0x00]

theorem test_witness_DecodeOfEncode :
    (cfg 64).sizesOk ∧ Instr.wf (cfg 64) (.frame 0xFFFF [0x01]) = true ∧ Instr.wf (cfg 64) (.canSend 0x7FF [0x55]) = true ∧
    Instr.wf (cfg 64) (.reportFirstFdExt 0x1FFFFFFF 64 (List.replicate 52 0)) = true ∧ (List.replicate 52 (0 : Byte)).length = (cfg 64).cap1 := by decide

/-- Both sides of R108: a valid frame, and one whose length field is one byte short of OVH. -/
theorem test_witness_AcceptedBytesAreTheFrame :
    scanBytes (cfg 64) connectFrame = .ok (0, [0x01, 0x01]) ∧ scanBytes (cfg 64) (connectFrame.take 8) = .ok (0, [0x01, 0x01]) ∧ (connectFrame.take 8).length = (cfg 64).ovh + 2 ∧
    unLE (slice [0xFF, 0x05, 0x00, 0x00, 0x00, 0xFC] 1 2) < (cfg 64).ovh ∧ sum8 [0xFF, 0x05, 0x00, 0x00, 0x00, 0xFC] = 0 := by decide

theorem test_witness_DlcTable : (msg .fd .standard 0x100 9 (List.replicate 12 0)).wf ∧ 8 < (9 : BitVec 4).toNat := by decide

/-- The script's head presents an encoding. -/
def presented (s : State) (e : Encoded) : State := { s with script := [{ choice := .call e, env := acceptingEnv }] }

theorem test_witness_StepRunsDecodedInstruction :
    (presented idle (portOp 0x42 OpArgs.none)).cfg.sizesOk ∧
    (presented idle (portOp 0x42 OpArgs.none)).script = { choice := .call (portOp 0x42 OpArgs.none), env := acceptingEnv } :: [] ∧ (portOp 0x42 OpArgs.none).wireFormat ≠ .frame ∧
    decode (cfg 64) (portOp 0x42 OpArgs.none) = .ok .transportReady ∧ mayCall acceptingEnv.caller .transportReady = true ∧
    decode (cfg 64) (portOp 0x02 OpArgs.none) = .ok (.receive []) ∧ mayCall .isrUsb (.receive []) = false ∧
    (presented idle (portOp 0x02 OpArgs.none)).running = true := by decide

theorem test_witness_StepRunsFrameAtReadIndex :
    (presented (ringOf (cfg 64) 60 connectFrame) (onWire .frame [])).cfg.sizesOk ∧
    (presented (ringOf (cfg 64) 60 connectFrame) (onWire .frame [])).script = { choice := .call (onWire .frame []), env := acceptingEnv } :: [] ∧
    (onWire .frame []).wireFormat = .frame ∧ (presented (ringOf (cfg 64) 60 connectFrame) (onWire .frame [])).unread = some connectFrame ∧
    decodeFrame (cfg 64) connectFrame = .ok (.frame 0 [0x01, 0x01]) ∧ acceptingEnv.caller = .cmdctx ∧
    (ringOf (cfg 64) 60 connectFrame).running = true := by decide

theorem test_witness_StepTakesInputsAndResumesTasks :
    idle.script = [] ∧ ({ idle with script := [{ choice := .resume .bridge, env := acceptingEnv }] } : State).cfg.sizesOk ∧
    ({ idle with script := [{ choice := .resume .bridge, env := acceptingEnv }] } : State).script = { choice := .resume .bridge, env := acceptingEnv } :: [] ∧
    (Agent.cmdctx = .cmdctx ∧ Agent.host ≠ .cmdctx ∧ Agent.host ≠ .bridge) := by decide

theorem test_witness_InitCreatesResetState : (State.beforeInit (cfg 64)).inited = false := by decide

theorem test_witness_NothingEnabledOutsideRunning :
    (State.beforeInit (cfg 64)).inited = false ∧ (∀ ok, Instr.scan ≠ .init ok) ∧
    ({ idle with bst := .halted } : State).inited = true ∧
    got (step (presented { idle with bst := .halted } (portOp 0x04 OpArgs.none))) (fun t => t.bst) = some .halted := by decide

theorem test_witness_ReceiveRejectAppendsWhatFits :
    (ringOf (cfg 8) 2 [1, 2, 3]).receiveReady ∧ (cfg 8).fullPolicy = .reject ∧ (ringOf (cfg 8) 2 [1, 2, 3]).unread = some [1, 2, 3] ∧
    (ringOf (cfg 8) 2 [1, 2, 3]).indicesOk ∧ (ringOf (cfg 8) 2 [1, 2, 3]).free = 4 := by unfold State.indicesOk; decide

theorem test_witness_ReceiveOverwriteKeepsTheLatest :
    (ringOf { cfg 8 with fullPolicy := .overwrite } 2 [1, 2, 3]).receiveReady ∧ 2 ≤ (cfg 8).cap ∧
    (ringOf { cfg 8 with fullPolicy := .overwrite } 2 [1, 2, 3]).unread = some [1, 2, 3] ∧
    (ringOf { cfg 8 with fullPolicy := .overwrite } 2 [1, 2, 3]).indicesOk := by unfold State.indicesOk; decide

/-- Index 4 is outside the places of two bytes appended at index 7 of eight. -/
theorem test_witness_ReceiveFrame :
    got (exec (.receive [1, 2]) { State.resetWith (cfg 8) with rd := 6, wr := 7 }) (fun t => t.wr) = some 1 ∧ 7 < (cfg 8).cap ∧
    (∀ k, k < 2 → 4 ≠ (7 + k) % 8) := by decide

theorem test_witness_IngressReceivesThenProcesses : idle.parserReady ∧ idle.env.caller = .cmdctx ∧ (State.resetWith { cfg 64 with lenPrefix := true }).parserReady := by decide

/-- The three stops: nothing unread; five bytes of a frame; one byte less than the length says. -/
theorem test_witness_ScanStopsWriteNothing :
    (idle.parserReady ∧ idle.unread = some [] ∧ idle.used = 0) ∧
    ((ringOf (cfg 16) 0 [0xFF, 6, 0, 0, 0]).parserReady ∧ (ringOf (cfg 16) 0 [0xFF, 6, 0, 0, 0]).unread = some [0xFF, 6, 0, 0, 0] ∧ (ringOf (cfg 16) 0 [0xFF, 6, 0, 0, 0]).used < (cfg 16).ovh) ∧
    ((ringOf (cfg 16) 9 [0xFF, 0x0F, 0, 0, 0, 0xF1]).parserReady ∧ (cfg 16).ovh ≤ (ringOf (cfg 16) 9 [0xFF, 0x0F, 0, 0, 0, 0xF1]).used ∧
      unLE (slice [0xFF, 0x0F, 0, 0, 0, 0xF1] 1 2) = (cfg 16).cap - 1 ∧ (ringOf (cfg 16) 9 [0xFF, 0x0F, 0, 0, 0, 0xF1]).used < 15) := by decide

/-- The three skips: no tag; lengths 5 and 16 just outside 6 to 15; a sum of 1. -/
theorem test_witness_ScanSkipsOneByte :
    ((ringOf (cfg 16) 15 [0x00]).parserReady ∧ (ringOf (cfg 16) 15 [0x00]).unread = some [0x00] ∧ (0x00 : Byte) ≠ Config.tag) ∧
    ((ringOf (cfg 16) 0 [0xFF, 5, 0, 0, 0, 0xFC]).used = (cfg 16).ovh ∧ unLE (slice [0xFF, 5, 0, 0, 0, 0xFC] 1 2) < (cfg 16).ovh ∧
      (cfg 16).cap - 1 < unLE (slice [0xFF, 0x10, 0, 0, 0, 0xF1] 1 2)) ∧
    ((ringOf (cfg 16) 0 [0xFF, 6, 0, 0, 0, 0xFC]).used = 6 ∧ unLE (slice [0xFF, 6, 0, 0, 0, 0xFC] 1 2) = 6 ∧
      sum8 ([0xFF, 6, 0, 0, 0, 0xFC].take 6) ≠ 0) := by decide

theorem test_witness_ScanAcceptsValidFrame :
    (ringOf (cfg 16) 12 connectFrame).parserReady ∧ (ringOf (cfg 16) 12 connectFrame).unread = some connectFrame ∧
    scanBytes (cfg 16) connectFrame = .ok (0, [0x01, 0x01]) ∧ [0x01, (0x01 : Byte)].length ≤ (cfg 16).cmdMax := by decide

theorem test_witness_ScanHasTheCommandsEffect :
    (ringOf (cfg 16) 12 connectFrame).parserReady ∧ (ringOf (cfg 16) 12 connectFrame).unread = some connectFrame ∧
    scanBytes (cfg 16) connectFrame = .ok (0, [0x01, 0x01]) ∧ (decodeCommand (cfg 16) [0x01, 0x01]).toOption = some (.connect 0x01) ∧
    (ringOf (cfg 16) 12 [0xFF, 0x07, 0x00, 0x00, 0x00, 0x01, 0xF9]).parserReady ∧
    (ringOf (cfg 16) 12 [0xFF, 0x07, 0x00, 0x00, 0x00, 0x01, 0xF9]).unread = some [0xFF, 0x07, 0x00, 0x00, 0x00, 0x01, 0xF9] ∧
    scanBytes (cfg 16) [0xFF, 0x07, 0x00, 0x00, 0x00, 0x01, 0xF9] = .ok (0, [0x01]) ∧
    (match decodeCommand (cfg 16) [0x01] with | .error c => some c | .ok _ => none) = some .lengthMismatch := by decide

theorem test_witness_OverlongPayloadFaults :
    (ringOf { cfg 16 with cmdMax := 1 } 0 connectFrame).parserReady ∧
    (ringOf { cfg 16 with cmdMax := 1 } 0 connectFrame).unread = some connectFrame ∧
    scanBytes { cfg 16 with cmdMax := 1 } connectFrame = .ok (0, [0x01, 0x01]) ∧ ({ cfg 16 with cmdMax := 1 } : Config).cmdMax < 2 ∧
    (cfg 16).payloadFits ∧ scanBytes (cfg 16) connectFrame = .ok (0, [0x01, 0x01]) := by decide

theorem test_witness_ProcessLoopsOverScan :
    (ringOf (cfg 16) 12 connectFrame).parserReady ∧ (ringOf (cfg 16) 12 connectFrame).unread = some connectFrame ∧
    scanBytes (cfg 16) connectFrame = .ok (0, [0x01, 0x01]) ∧ 2 ≤ (cfg 16).cmdMax ∧
    ({ idle with cmdctx := [.process] } : State).running = true ∧ ({ idle with cmdctx := [.process] } : State).lock = { owner := none, depth := 0 } ∧
    (ringOf (cfg 16) 0 [0x00]).parserReady ∧ (ringOf (cfg 16) 0 [0x00]).unread = some [0x00] ∧
    (match scanBytes (cfg 16) [0x00] with | .error o => some o | .ok _ => none) = some .skipNonTag := by decide

theorem test_witness_FrameRoundTripsThroughTheRing :
    ({ idle with rd := 60, wr := 60 } : State).parserReady ∧ idle.env.caller = .cmdctx ∧ ({ idle with rd := 60, wr := 60 } : State).indicesOk ∧
    ({ idle with rd := 60, wr := 60 } : State).used = 0 ∧ (cfg 64).sizesOk ∧ 0xFFFF < (cfg 64).seqMod ∧
    (cfg 64).ovh + (List.replicate 57 (0xFF : Byte)).length ≤ (cfg 64).cap - 1 ∧ (List.replicate 57 (0xFF : Byte)).length ≤ (cfg 64).cmdMax := by
  unfold State.indicesOk; decide

/-- For the statements about every next state. -/
theorem test_witness_OnlyParserOperationsMoveReadIndex : got (exec .scan (ringOf (cfg 16) 15 [0x00])) (fun t => t.rd) = some 0 := by decide

theorem test_witness_OnlyTaskTxWritesInflight :
    got (exec .taskTx { idle with bridge := .tx2 Notif.clear (some m1) }) (fun t => t.txInflight) = some true ∧
    got (cmdResume { idle with cmdctx := [.send2 false] }) (fun t => t.notif.txReady) = some true := by decide

theorem test_witness_QueuesAreFifo :
    got (exec .taskTx { idle with bridge := .tx1 Notif.clear, txq := [m1, m2] }) (fun t => t.txq) = some [m2] ∧ (∀ ok, Instr.taskTx ≠ .init ok) := by decide

theorem test_witness_InterruptContextFrame :
    instrContext (.rxIsr m1) = .interrupt ∧ got (exec (.rxIsr m1) (started (cfg 64))) (fun t => t.rxq) = some [m1] ∧
    got (exec .transportReady { idle with egq := [[1]] }) (fun t => t.egq) = some [] := by decide

theorem test_witness_CommandContextFrame :
    commandContext .stop = true ∧ got (exec .stop (started (cfg 64))) (fun t => t.irqEn) = some false ∧
    got (cmdResume { idle with cmdctx := [.stop2 false] }) (fun t => t.cmdctx) = some [.stop3 false] := by decide

theorem test_witness_StepKeepsConfiguration : got (step (presented idle (portOp 0x12 OpArgs.none))) (fun t => t.cfg.cap) = some 64 := by decide

/-- The longest payload FORMAT_FRAME takes with two-byte fields has 65529 bytes. -/
theorem test_witness_FormatFrameWritesFrame :
    idle.running = true ∧ idle.bridge = .wait ∧ (cfg 64).ovh + 65529 ≤ (List.replicate 65535 (0 : Byte)).length ∧
    (cfg 64).ovh + 65529 ≤ 2 ^ (8 * (cfg 64).w.bytes) - 1 ∧ ({ idle with bridge := .second [[0x24]] } : State).bridge = .second [[0x24]] ∧
    ({ idle with bridge := .emit [] [] } : State).betweenFragments = false ∧ ({ idle with bridge := .format [[0x20]] } : State).betweenFragments = false := by
  rw [List.length_replicate]; decide

theorem test_witness_DispatchIgnoresInvalidPayloads :
    (cmdOf (cfg 64) [0x01, 0x01, 0x00]).cmdReady ∧
    (cmdOf (cfg 64) [0x01]).payload 1 = some [0x01] ∧
    ((cmdOf (cfg 64) [0x10, 0x21, 0x03]).payload 3 = some [0x10, 0x21, 0x03] ∧ 3 < 2 + (cfg 64).idw.bytes) ∧
    ((cmdOf (cfg 64) (0x10 :: List.replicate 12 9)).payload 13 = some (0x10 :: List.replicate 12 9) ∧ 13 > 2 + (cfg 64).idw.bytes + 8) ∧
    ((cmdOf (cfg 64) [0x10, 0, 0, 9]).payload 4 = some [0x10, 0, 0, 9] ∧ ([0, 0, 9] : List Byte)[(cfg 64).idw.bytes]? = some 9 ∧ 8 < (9 : Byte).toNat) ∧
    ((cmdOf (cfg 64) [0x10, 0, 0, 8]).payload 4 = some [0x10, 0, 0, 8] ∧ ([0, 0, 8] : List Byte)[(cfg 64).idw.bytes]? = some 8 ∧ 4 ≠ 2 + (cfg 64).idw.bytes + (8 : Byte).toNat) ∧
    (cmdOf (cfg 64) [0x24]).payload 1 = some [0x24] := by decide

theorem test_witness_DispatchRoutesCommands :
    (cmdOf (cfg 64) [0x01, 0x00]).cmdReady ∧ (cmdOf (cfg 64) [0x01, 0x00]).payload 2 = some [0x01, 0x00] ∧
    (0xFFFF : BitVec 32).toNat < 2 ^ (8 * (cfg 64).idw.bytes) ∧
    (cmdOf (cfg 64) [0x10, 0xFF, 0xFF, 0x01, 0x55]).payload (2 + (cfg 64).idw.bytes + 1) =
      some (0x10 :: (leBytes (cfg 64).idw.bytes (0xFFFF : BitVec 32).toNat ++ BitVec.ofNat 8 1 :: [0x55])) ∧
    (cmdOf (cfg 64) [0x01, 0x00]).cmdLen < 3 := by decide

/-- A frame whose payload is one unknown byte. -/
def unknownFrame : List Byte := [0xFF, 0x07, 0x00, 0x00, 0x00, 0x02, 0xF8]

theorem test_witness_UnknownCommandIsNoOp :
    (cmdOf (cfg 64) [0x11, 0x01]).cmdReady ∧ (cmdOf (cfg 64) [0x11, 0x01]).payload 2 = some [0x11, 0x01] ∧
    (ringOf (cfg 16) 12 unknownFrame).parserReady ∧ (ringOf (cfg 16) 12 unknownFrame).unread = some unknownFrame ∧
    scanBytes (cfg 16) unknownFrame = .ok (0, [0x02]) ∧ (cfg 16).cmdMax = 16 := by decide

theorem test_witness_ConnectStartsTheBridge :
    idle.cmdReady ∧ idle.bst ≠ .started ∧ idle.env = acceptingEnv ∧ romLookup (cfg 64).bitrateRom (cfg 64).defaultArb = some rom0 ∧
    romLookup (cfg 64).bitrateRom (cfg 64).defaultData = some rom1 := by decide

theorem test_witness_ConnectFailsWithoutStarting :
    (started (cfg 64)).cmdReady ∧ (started (cfg 64)).bst = .started ∧
    ({ idle with env := { acceptingEnv with configureOk := false } } : State).cmdReady ∧
    ({ idle with env := { acceptingEnv with startOk := false } } : State).cmdReady ∧ ({ idle with env := { acceptingEnv with armOk := false } } : State).cmdReady ∧
    romLookup ({ cfg 64 with defaultData := 9 } : Config).bitrateRom ({ cfg 64 with defaultData := 9 } : Config).defaultData = none ∧
    romLookup (cfg 64).bitrateRom (cfg 64).defaultArb = some rom0 ∧ romLookup (cfg 64).bitrateRom (cfg 64).defaultData = some rom1 := by decide

theorem test_witness_StopTakesThreeOrderedSteps : (started (cfg 64)).cmdReady ∧ (0x00 : Byte) ≠ 0x01 := by decide

theorem test_witness_CanSendQueuesOneMessage :
    ({ idle with txq := [m1, m1] } : State).cmdReady ∧ classify (cfg 64) 0x7FF = some (.standard, 0x7FF) ∧
    (cfg 64).atomicOps = false ∧ ({ cfg 64 with atomicOps := true } : Config).atomicOps = true ∧
    ({ idle with txq := [m1, m1, m1] } : State).cmdReady ∧ [m1, m1].length < 3 ∧ 3 ≤ [m1, m1, m1].length ∧ (List.replicate 8 (0 : Byte)).length ≤ 8 := by decide

theorem test_witness_IdentifierClassification :
    (0x7FF : BitVec 32).toNat ≤ 0x7FF ∧ 0x7FF < (0x800 : BitVec 32).toNat ∧ (cfg 64).idw = .two ∧ (cfg 64).idRangePolicy = .drop ∧
    (0x1FFFFFFF : BitVec 32).toNat ≤ 0x1FFFFFFF ∧ 0x1FFFFFFF < (0x20000000 : BitVec 32).toNat ∧
    (classify (cfg 64) 0x800 = none ∧ idle.cmdReady ∧ idle.cfg = cfg 64) := by decide

theorem test_witness_ConfigureAppliesTiming :
    idle.cmdReady ∧ (started (cfg 64)).cmdReady ∧ romLookup (cfg 64).bitrateRom 2 = none ∧ romLookup (cfg 64).bitrateRom 1 = some rom1 ∧
    romLookup (cfg 64).bitrateRom 0 = some rom0 ∧ ({ idle with env := { acceptingEnv with configureOk := false } } : State).cmdReady := by decide

theorem test_witness_StartEnablesInterrupts :
    idle.cmdReady ∧ idle.bst ≠ .configured ∧ ({ idle with bst := .configured } : State).cmdReady ∧
    ({ idle with bst := .configured, env := { acceptingEnv with armOk := false } } : State).cmdReady ∧
    ({ idle with bst := .configured, env := { acceptingEnv with startOk := false } } : State).cmdReady := by decide

theorem test_witness_SendPushesThenSignals :
    ({ idle with txq := [m1, m1] } : State).cmdReady ∧ m4.wf ∧ (State.resetWith { cfg 64 with atomicOps := true }).cmdReady ∧
    ({ idle with txq := [m1, m1, m1] } : State).cmdReady := by decide

theorem test_witness_RxInterruptQueuesOrDrops : ({ started (cfg 64) with rxq := [m1, m2, m3] } : State).interruptReady ∧ m4.wf := by decide

theorem test_witness_TxEmptyInterruptSignals :
    (started (cfg 64)).interruptReady ∧ ¬ (({ started (cfg 64) with irqEn := false } : State).irqEn = true ∧ ({ started (cfg 64) with irqEn := false } : State).notifArmed = true) := by decide

theorem test_witness_DisabledInterruptsAreNotTaken :
    ({ started (cfg 64) with irqEn := false } : State).irqEn = false ∧ ({ started (cfg 64) with notifArmed := false } : State).notifArmed = false := by decide

theorem test_witness_TaskWaitTakesAndClears :
    idle.running = true ∧ idle.bridge = .wait ∧ ({ idle with notif := { txReady := true, rxAvail := true } } : State).notif.txReady = true ∧
    ({ idle with notif := { txReady := false, rxAvail := true } } : State).notif.rxAvail = true ∧
    (idle.notif.txReady = false ∧ idle.notif.rxAvail = false) ∧ ({ idle with bridge := .rx Notif.clear } : State).bridge ≠ .wait ∧
    idle.cfg.atomicOps = false ∧ (atomic 64).atomicOps = true := by decide

theorem test_witness_TaskTxPopsAndSubmits :
    ({ idle with bridge := .tx2 { txReady := true, rxAvail := true } (some m1) } : State).running = true ∧
    ({ idle with bridge := .tx1 { txReady := true, rxAvail := false }, txq := [m1, m2] } : State).txq = m1 :: [m2] ∧
    (State.resetWith { cfg 64 with atomicOps := true }).cfg.atomicOps = true ∧ idle.cfg.atomicOps = false := by decide

theorem test_witness_TaskRxReportsOneElement :
    ({ idle with bridge := .rx { txReady := false, rxAvail := true } } : State).running = true ∧ idle.rxq = [] ∧ (cfg 64).sizesOk ∧
    m1.wf ∧ m1.nbytes ≤ (cfg 64).cap1 ∧ m4.wf ∧ (cfg 64).cap1 < m4.nbytes ∧ (cfg 64).fragMode = .twoPacket ∧ idle.cfg.atomicOps = false ∧
    (atomic 64).sizesOk ∧ (atomic 64).atomicOps = true := by decide

theorem test_witness_StrandedEntryIsReachable :
    ({ idle with txInflight := true, notif := { txReady := true, rxAvail := false } } : State).cmdReady ∧ idle.bridge = .wait ∧
    (cfg 64).atomicOps = false ∧ idle.txq = [] ∧ m1.wf := by decide

/-- `CAP1` is 52; code 14 is 48 bytes and fits, code 15 is 64 and does not. -/
theorem test_witness_ReportFormatsOnePacket :
    idle.bridgeReady ∧ (cfg 64).sizesOk ∧ (msg .fd .standard 0x100 14 (List.replicate 48 0)).wf ∧
    (msg .fd .standard 0x100 14 (List.replicate 48 0)).nbytes ≤ (cfg 64).cap1 ∧ idle.cfg.atomicOps = false ∧
    (State.resetWith (atomic 64)).bridgeReady ∧ (atomic 64).sizesOk := by decide

theorem test_witness_ReportFragmentsIntoTwoPackets :
    idle.bridgeReady ∧ (cfg 64).sizesOk ∧ m4.wf ∧ (cfg 64).cap1 < m4.nbytes ∧ (cfg 64).fragMode = .twoPacket ∧ idle.cfg.atomicOps = false ∧
    (State.resetWith (atomic 64)).bridgeReady ∧ (atomic 64).sizesOk ∧ (atomic 64).cap1 < m4.nbytes ∧ (atomic 64).fragMode = .twoPacket := by decide

theorem test_witness_ReportRefusals :
    (State.resetWith { cfg 64 with fragMode := .refuse }).bridgeReady ∧ m4.wf ∧ (cfg 64).cap1 < m4.nbytes ∧ ¬ mBad.wf := by decide

theorem test_witness_ReportRowsEmitTheirPayload :
    idle.bridgeReady ∧ (cfg 64).frameFits (cfg 64).pkt (6 + 52) ∧ (State.resetWith (atomic 64)).bridgeReady := by decide

theorem test_witness_FragmentRowsEmitTheirPayload :
    idle.bridgeReady ∧ (cfg 64).fragMode = .twoPacket ∧ (cfg 64).frameFits (cfg 64).pkt (6 + 52) ∧ (cfg 64).frameFits (cfg 64).pkt (2 + 56) ∧
    (State.resetWith { cfg 64 with pkt := 42 }).cfg.frameFits 42 (2 + 34) ∧ ({ idle with bridge := .emit [0] [[0x24]] } : State).running = true ∧
    (State.resetWith { cfg 64 with fragMode := .refuse }).bridgeReady := by decide

theorem test_witness_FragmentsReassemble : (cfg 64).sizesOk ∧ m4.wf ∧ (cfg 64).cap1 < m4.nbytes ∧ (cfg 64).fragMode = .twoPacket := by decide

theorem test_witness_WorkedReportExample : idle.bridgeReady ∧ (cfg 64).w = .two ∧ (cfg 64).pkt = 64 ∧ idle.seq = 0 ∧ idle.cfg.atomicOps = false := by decide

theorem test_witness_EmitWritesQueuesOrDrops :
    idle.bridgeReady ∧ (List.replicate 64 (0 : Byte)).length = (cfg 64).pkt ∧ ([[1]] : List (List Byte)).length < (cfg 64).egqCap ∧
    (cfg 64).egqCap ≤ ([[1], [2]] : List (List Byte)).length := by decide

theorem test_witness_TransportReadyDrainsTheQueue :
    idle.running = true ∧ idle.egq = [] ∧ ({ idle with egq := [[1], [2]] } : State).egq = [1] :: [[2]] := by decide

theorem test_witness_ResetSatisfiesInvariant : (cfg 64).sizesOk ∧ (cfg 7).sizesOk ∧ Config.build.sizesOk := by decide

/-- In the middle of a STOP inside the handler of a frame inside PROCESS, with a packet about to be EMITted. -/
def busy : State :=
  { ringOf (cfg 64) 60 connectFrame with
    bst := .started
    timing := some { arbitration := rom0, dataPhase := rom1 }
    notifArmed := true
    cmdctx := [.stop2 true, .scanReturn 8 2, .process]
    lock := { owner := some .cmdctx, depth := 1 }
    txq := [m1]
    rxq := [m4]
    bridge := .emit (List.replicate 64 0) []
    script := [{ choice := .resume .cmdctx, env := acceptingEnv }] }

theorem test_witness_invariant : busy.Inv := by
  refine ⟨by decide, ?_, ⟨by decide, [], rfl⟩, ?_, ⟨connectFrame, by decide⟩, ?_, ?_, ?_, ?_, ?_, fun h => nomatch h⟩
  · unfold State.memoryOk; decide
  · unfold State.indicesOk; decide
  · unfold State.queuesOk; decide
  · unfold State.timingOk; decide
  · exact ⟨rfl, rfl⟩
  · exact ⟨.inr ⟨rfl, rfl, rfl, by decide⟩, rfl⟩
  · exact ⟨rfl, by simp⟩

theorem test_witness_StepKeepsInvariant : busy.Inv ∧ got (step busy) (fun t => t.cmdctx) = some [.stop3 true, .scanReturn 8 2, .process] :=
  ⟨test_witness_invariant, by decide⟩

/-- Another task's RECEIVE while CMDCTX holds LOCK, and the handler's own. -/
theorem test_witness_ReceiveFrame_lock :
    (calledBy .bridge busy).Inv ∧ busy.running = true ∧ (calledBy .bridge busy).env.caller = .bridge ∧
    (calledBy .bridge busy).lock.owner = some .cmdctx ∧ busy.env.caller = .cmdctx ∧ busy.inHandler = true :=
  have h := test_witness_invariant
  ⟨⟨h.sizes, h.memory, h.payload, h.indices, h.unread, h.queues, h.timing, h.enables, h.stack, h.bridge, h.atomic⟩, by decide⟩

/-- An idle block with a whole frame to scan. -/
theorem test_witness_ProcessTerminates :
    (ringOf (cfg 64) 60 connectFrame).Inv ∧ (cfg 64).payloadFits ∧ (ringOf (cfg 64) 60 connectFrame).parserReady := by
  refine ⟨⟨by decide, ?_, ⟨by decide, [], rfl⟩, ?_, ⟨connectFrame, by decide⟩, ?_, ?_, ⟨rfl, rfl⟩, rfl, trivial, fun h => nomatch h⟩, by decide, by decide⟩
  · unfold State.memoryOk; decide
  · unfold State.indicesOk; decide
  · unfold State.queuesOk; decide
  · unfold State.timingOk; decide

theorem test_witness_WellFormedConfigurationNeverFaults :
    busy.Inv ∧ busy.cfg.payloadFits ∧ (∀ n, Instr.dispatch 0 = .dispatch n → n ≤ busy.cmdLen) :=
  ⟨test_witness_invariant, by decide, by intro n h; injection h with h; omega⟩

end Sys2Proof.Tests
end

section
/-! PROOFS. The family 00_scope: the configuration is constant, no fault and no unwritten read in a well-formed configuration, and the step of a decoded instruction. -/

namespace Sys2Proof.Machine

/-! ### The step's inputs

What the next stimulus leaves of the state, and the step that a presented encoding makes. -/

section
variable {s t : State}

/-- Taking the next input writes the script, the environment's answers and the stream's index (R300). -/
theorem nextStimulus_frame (s : State) : (nextStimulus s).2 = { s with
    script := (nextStimulus s).2.script, env := (nextStimulus s).2.env, tick := (nextStimulus s).2.tick } := by
  unfold nextStimulus
  split <;> rfl

@[simp] theorem nextStimulus_cfg (s : State) : (nextStimulus s).2.cfg = s.cfg := by rw [nextStimulus_frame]

/-- The invariant does not speak of the inputs. -/
theorem nextStimulus_inv (h : s.Inv) : (nextStimulus s).2.Inv := by
  rw [nextStimulus_frame]
  exact ⟨h.sizes, h.memory, h.payload, h.indices, h.unread, h.queues, h.timing, h.enables, h.stack, h.bridge, h.atomic⟩

theorem step_of_script {st : Stimulus} {rest : List Stimulus} (hc : s.cfg.sizesOk) (hs : s.script = st :: rest) :
    step s = runChoice st.choice { s with script := rest, env := st.env } := by
  simp only [step, stepOnce, if_pos hc, nextStimulus, hs]

theorem fetch_of_not_frame {e : Encoded} (h : e.wireFormat ≠ .frame) : fetch s e = decode s.cfg e := by
  unfold fetch
  split
  · contradiction
  · rfl

/-- A presented encoding that decodes off the ring is called for its presenter (R310). -/
theorem step_of_call {e : Encoded} {env : Env} {rest : List Stimulus} {i : Instr} (hc : s.cfg.sizesOk)
    (hs : s.script = { choice := .call e, env := env } :: rest) (hf : e.wireFormat ≠ .frame) (hd : decode s.cfg e = .ok i) :
    step s = runCalled i { s with script := rest, env := env } := by
  rw [step_of_script hc hs]
  simp only [runChoice, runEncoded, fetch_of_not_frame hf, hd]

theorem mayCall_iff {a : Agent} {i : Instr} : mayCall a i = true ↔ a ∈ callers i := by simp [mayCall]

end

/-- Settles O6: the decoded instruction is called for the presenter, and each row's caller list is the table's. -/
theorem stepRunsDecodedInstruction : Obligations.StepRunsDecodedInstruction := by
  unfold Obligations.StepRunsDecodedInstruction
  intro s e env rest i hc hs hf hd
  rw [step_of_call hc hs hf hd]
  refine ⟨fun h => runCalled_ok h, fun h => runCalled_refused h, ?_⟩
  rw [mayCall_iff]
  cases i <;> simp [callers, or_comm]

/-! ### Regular answers

An answer is regular when it keeps the configuration, is no fault and meets no unwritten byte. Every operation but the four that read RING or CMD answers so from every state; those four do so where the bytes they read are written and the payload fits. -/

/-- The answer is a next state of the same configuration, or a refusal other than that of an unwritten read. -/
def State.Regular (s : State) (r : Res) : Prop :=
  match r with
  | .next t => t.cfg = s.cfg
  | .fault _ => False
  | .refused e => e ≠ .unwrittenRead

section
variable {s t : State} {k : Res}

@[simp] theorem State.regular_next : s.Regular (.next t) ↔ t.cfg = s.cfg := Iff.rfl
@[simp] theorem State.regular_refused {e : Refusal} : s.Regular (.refused e) ↔ e ≠ .unwrittenRead := Iff.rfl

theorem State.Regular.cfg_eq (h : s.Regular (.next t)) : t.cfg = s.cfg := h

theorem State.Regular.ne_fault (h : s.Regular k) (f : Fault) : k ≠ .fault f := by rintro rfl; exact h

theorem State.Regular.ne_unwrittenRead (h : s.Regular k) : k ≠ .refused .unwrittenRead := by rintro rfl; exact h rfl

/-- Regularity speaks of the state's configuration only. -/
theorem State.Regular.of_cfg (h : t.Regular k) (hc : t.cfg = s.cfg) : s.Regular k := by
  cases k with
  | next u => exact h.cfg_eq.trans hc
  | fault f => exact h
  | refused e => exact h

/-! #### Guards -/

@[simp] theorem waits_regular : s.Regular (waits s) := rfl

theorem whenCmdIdle_regular (h : s.Regular k) : s.Regular (whenCmdIdle s k) := by
  rcases whenCmdIdle_cases (s := s) (k := k) with e | ⟨_, e⟩ <;> rw [e]
  · exact rfl
  · exact h

theorem whenParserIdle_regular (h : s.Regular k) : s.Regular (whenParserIdle s k) := by
  rcases whenParserIdle_cases (s := s) (k := k) with e | ⟨_, e⟩ | ⟨_, _, _, e⟩ <;> rw [e]
  · exact rfl
  · exact nofun
  · exact h

theorem whenBridgeIdle_regular (h : s.Regular k) : s.Regular (whenBridgeIdle s k) := by
  rcases whenBridgeIdle_cases (s := s) (k := k) with e | ⟨_, e⟩ <;> rw [e]
  · exact rfl
  · exact h

theorem takeInterrupt_regular (h : s.Regular k) : s.Regular (takeInterrupt s k) := by
  rcases takeInterrupt_cases (s := s) (k := k) with e | ⟨_, e⟩ <;> rw [e]
  · exact rfl
  · exact h

/-! #### Egress -/

@[simp] theorem emitPacket_cfg (pkt : List Byte) (a : Bool) (s : State) : (emitPacket pkt a s).cfg = s.cfg := by
  rw [emitPacket_frame]

@[simp] theorem writeKeepAlive_cfg (s : State) : (writeKeepAlive s).cfg = s.cfg := by
  unfold writeKeepAlive
  split <;> rfl

theorem execFormatFrame_regular (call : FormatCall) (s : State) : s.Regular (execFormatFrame call s) := by
  unfold execFormatFrame
  split_ifs
  · exact rfl
  · exact rfl
  · exact nofun

theorem execEmit_regular (pkt : List Byte) (a : Bool) (s : State) : s.Regular (execEmit pkt a s) := by
  apply whenBridgeIdle_regular
  split_ifs
  · exact emitPacket_cfg pkt a s
  · exact nofun

theorem execTransportReady_regular (s : State) : s.Regular (execTransportReady s) := by
  unfold execTransportReady
  rcases popOldest_cases s.egq with ⟨_, e⟩ | ⟨pkt, q, _, e⟩ <;> rw [e]
  · split_ifs
    · exact writeKeepAlive_cfg s
    · exact rfl
  · split_ifs <;> exact rfl

theorem execKeepAlive_regular (s : State) : s.Regular (execKeepAlive s) := by
  unfold execKeepAlive
  split_ifs
  · exact writeKeepAlive_cfg s
  · exact rfl

theorem formatNext_regular (p : List Byte) (left : List (List Byte)) (s : State) : s.Regular (formatNext p left s) := by
  unfold formatNext
  split_ifs
  · exact rfl
  · exact nofun

theorem reportAtOnce_regular (a : Bool) (ps : List (List Byte)) (s : State) : s.Regular (reportAtOnce a ps s) := by
  rcases reportAtOnce_cases a ps s with ⟨t, e, ht, _⟩ | ⟨e, _⟩ <;> rw [e]
  · rw [State.regular_next, ht]
  · exact nofun

theorem beginReport_regular (ps : List (List Byte)) (s : State) : s.Regular (beginReport ps s) := by
  unfold beginReport
  split_ifs
  · exact reportAtOnce_regular _ ps s
  · cases ps with
    | nil => exact rfl
    | cons p ps => exact formatNext_regular p ps s

theorem reportPayloads_error {c : Config} {m : CanMessage} {e : Refusal} (h : reportPayloads c m = .error e) : e ≠ .unwrittenRead := by
  rcases reportPayloads_cases c m with ⟨_, h'⟩ | ⟨_, _, h'⟩ | ⟨_, _, _, h'⟩ | ⟨_, _, _, h'⟩ <;> rw [h'] at h <;> cases h <;> exact nofun

theorem execReport_regular (m : CanMessage) (s : State) : s.Regular (execReport m s) := by
  apply whenBridgeIdle_regular
  split
  · exact beginReport_regular _ s
  · exact reportPayloads_error ‹_›

theorem emitPayload_regular (p : List Byte) (s : State) : s.Regular (emitPayload p s) :=
  whenBridgeIdle_regular (beginReport_regular [p] s)

theorem emitFragment_regular (p : List Byte) (s : State) : s.Regular (emitFragment p s) := by
  unfold emitFragment
  split
  · exact emitPayload_regular p s
  · exact whenBridgeIdle_regular nofun

/-! #### The bridge task -/

theorem reportStep_regular (s : State) : s.Regular (reportStep s) := by
  rcases reportStep_cases s with ⟨p, ps, _, e⟩ | ⟨pkt, left, _, e⟩ | ⟨_, e⟩ | e <;> rw [e]
  · exact formatNext_regular p ps s
  · exact emitPacket_cfg pkt _ s
  · exact rfl
  · exact rfl

theorem taskRxStep_regular (s : State) : s.Regular (taskRxStep s) := by
  unfold taskRxStep
  split
  · exact rfl
  · split
    · split_ifs
      · exact (beginReport_regular _ _).of_cfg rfl
      · exact rfl
    · exact reportPayloads_error ‹_›

@[simp] theorem taskTxStep2_cfg (pending : Notif) (e : Option CanMessage) (s : State) : (taskTxStep2 pending e s).cfg = s.cfg := by
  cases e <;> rfl

@[simp] theorem taskTxStep1_cfg (pending : Notif) (s : State) : (taskTxStep1 pending s).cfg = s.cfg := by
  unfold taskTxStep1
  split_ifs
  · exact taskTxStep2_cfg _ _ _
  · exact rfl

theorem bridgeTurn_regular (s : State) : s.Regular (bridgeTurn s) := by
  unfold bridgeTurn
  dsimp only
  split_ifs
  · exact (taskRxStep_regular _).of_cfg (taskTxStep1_cfg _ _)
  · exact (taskRxStep_regular _).of_cfg rfl
  · exact taskTxStep1_cfg _ _
  · exact rfl

theorem execTaskWait_regular (s : State) : s.Regular (execTaskWait s) := by
  unfold execTaskWait
  split_ifs
  · exact bridgeTurn_regular s
  · exact rfl
  · exact rfl

theorem execTaskTx_regular (s : State) : s.Regular (execTaskTx s) := by
  unfold execTaskTx
  split_ifs
  · split
    · exact taskTxStep1_cfg _ s
    · exact taskTxStep2_cfg _ _ s
    all_goals exact rfl
  · exact rfl

theorem execTaskRx_regular (s : State) : s.Regular (execTaskRx s) := by
  rcases execTaskRx_cases s with e | ⟨_, ⟨_, _, e⟩ | e⟩ <;> rw [e]
  · exact rfl
  · exact taskRxStep_regular s
  · exact reportStep_regular s

theorem bridgeResume_regular (s : State) : s.Regular (bridgeResume s) := by
  rcases bridgeResume_cases s with e | e | e <;> rw [e]
  · exact execTaskWait_regular s
  · exact execTaskTx_regular s
  · exact execTaskRx_regular s

/-! #### Interrupts, INIT and RECEIVE -/

theorem rxHandler_cfg (m : CanMessage) (s : State) : (rxHandler m s).cfg = s.cfg := by
  unfold rxHandler
  split <;> rfl

theorem execRxIsr_regular (m : CanMessage) (s : State) : s.Regular (execRxIsr m s) := by
  apply takeInterrupt_regular
  split_ifs
  · exact rxHandler_cfg m s
  · exact nofun

theorem execTxeIsr_regular (s : State) : s.Regular (execTxeIsr s) := takeInterrupt_regular rfl

theorem execInit_regular (ok : Bool) (s : State) : s.Regular (execInit ok s) := by
  unfold execInit
  split_ifs <;> exact rfl

@[simp] theorem receiveBody_cfg (bs : List Byte) (s : State) : (receiveBody bs s).cfg = s.cfg := by rw [receiveBody_frame]

theorem execReceive_regular (bs : List Byte) (s : State) : s.Regular (execReceive bs s) := by
  rcases execReceive_cases bs s with e | ⟨_, e⟩ | ⟨_, e⟩ <;> rw [e]
  · exact rfl
  · exact nofun
  · exact receiveBody_cfg bs s

theorem execIngress_regular (bs : List Byte) (s : State) : s.Regular (execIngress bs s) :=
  whenParserIdle_regular (receiveBody_cfg _ s)

/-! #### The command context's bridge operations and commands -/

theorem CmdKeeps.cfg_eq (h : CmdKeeps s t) : t.cfg = s.cfg := by rw [h.frame]

theorem HandlerKeeps.cfg_eq (h : HandlerKeeps s t) : t.cfg = s.cfg := h.keeps.cfg_eq

theorem execInvalid_regular (cause : InvalidCause) (s : State) : s.Regular (execInvalid cause s) :=
  whenCmdIdle_regular (ignoreCommand_keeps cause s).cfg_eq

theorem execCanSend_regular (ident : BitVec 32) (data : List Byte) (s : State) : s.Regular (execCanSend ident data s) := by
  apply whenCmdIdle_regular
  split_ifs
  · exact (canSendBody_keeps ident data s).cfg_eq
  · exact (ignoreCommand_keeps _ s).cfg_eq

theorem execConfigure_regular (arb data : BitrateName) (s : State) : s.Regular (execConfigure arb data s) :=
  have ⟨hk, hc⟩ := configureStep_keeps arb data s
  whenCmdIdle_regular (HandlerKeeps.return _ hk hc).cfg_eq

theorem execStart_regular (s : State) : s.Regular (execStart s) :=
  have ⟨hk, hc⟩ := startStep_keeps s
  whenCmdIdle_regular (HandlerKeeps.return _ hk hc).cfg_eq

theorem execSend_regular (m : CanMessage) (s : State) : s.Regular (execSend m s) := by
  apply whenCmdIdle_regular
  split_ifs
  · exact (sendStep1_keeps m false s).cfg_eq
  · exact nofun

/-! #### Every instruction -/

/-- Every operation answers regularly from every state, but for the four that read RING or CMD. -/
theorem exec_regular_or_reads (i : Instr) (s : State) :
    s.Regular (exec i s) ∨ (∃ seq p, i = .frame seq p) ∨ i = .process ∨ i = .scan ∨ ∃ n, i = .dispatch n := by
  cases i with
  | frame seq p => exact .inr (.inl ⟨seq, p, rfl⟩)
  | process => exact .inr (.inr (.inl rfl))
  | scan => exact .inr (.inr (.inr (.inl rfl)))
  | dispatch n => exact .inr (.inr (.inr (.inr ⟨n, rfl⟩)))
  | connect p => exact .inl (whenCmdIdle_regular (connectBody_keeps p s).cfg_eq)
  | canSend ident data => exact .inl (execCanSend_regular ident data s)
  | unknown id rest => exact .inl (execInvalid_regular _ s)
  | reportClassicStd | reportClassicExt | reportFdStd | reportFdExt => exact .inl (emitPayload_regular _ s)
  | reportFirstClassicStd | reportFirstClassicExt | reportFirstFdStd | reportFirstFdExt | reportCont =>
    exact .inl (emitFragment_regular _ s)
  | keepAlive => exact .inl (execKeepAlive_regular s)
  | init ok => exact .inl (execInit_regular ok s)
  | ingress bs => exact .inl (execIngress_regular bs s)
  | receive bs => exact .inl (execReceive_regular bs s)
  | formatFrame call => exact .inl (execFormatFrame_regular call s)
  | configure arb data => exact .inl (execConfigure_regular arb data s)
  | start => exact .inl (execStart_regular s)
  | stop => exact .inl (whenCmdIdle_regular (stopStep1_keeps false s).cfg_eq)
  | send m => exact .inl (execSend_regular m s)
  | rxIsr m => exact .inl (execRxIsr_regular m s)
  | txeIsr => exact .inl (execTxeIsr_regular s)
  | taskWait => exact .inl (execTaskWait_regular s)
  | taskTx => exact .inl (execTaskTx_regular s)
  | taskRx => exact .inl (execTaskRx_regular s)
  | report m => exact .inl (execReport_regular m s)
  | emit pkt a => exact .inl (execEmit_regular pkt a s)
  | transportReady => exact .inl (execTransportReady_regular s)

end

/-! ### The configuration -/

section
variable {s t : State}

theorem whenCmdIdle_next {k : Res} (h : whenCmdIdle s k = .next t) : t = s ∨ k = .next t := by
  rcases whenCmdIdle_cases (s := s) (k := k) with e | ⟨_, e⟩ <;> rw [e] at h
  · cases h; exact .inl rfl
  · exact .inr h

theorem whenParserIdle_next {k : Res} (h : whenParserIdle s k = .next t) : t = s ∨ k = .next t := by
  rcases whenParserIdle_cases (s := s) (k := k) with e | ⟨_, e⟩ | ⟨_, _, _, e⟩ <;> rw [e] at h
  · cases h; exact .inl rfl
  · cases h
  · exact .inr h

theorem execFrame_cfg (seq : Nat) {p : List Byte} (h : execFrame seq p s = .next t) : t.cfg = s.cfg := by
  rcases whenParserIdle_next h with rfl | hk
  · rfl
  · split_ifs at hk
    · cases hk; rfl
    · exact (acceptFrame_keeps hk).1.cfg_eq

theorem exec_cfg {i : Instr} (h : exec i s = .next t) : t.cfg = s.cfg := by
  rcases exec_regular_or_reads i s with hr | ⟨seq, p, rfl⟩ | rfl | rfl | ⟨n, rfl⟩
  · rw [h] at hr; exact hr.cfg_eq
  · exact execFrame_cfg seq h
  · rcases whenParserIdle_next h with rfl | hk
    · rfl
    · exact (processStep_keeps hk).cfg_eq
  · rcases whenParserIdle_next h with rfl | hk
    · rfl
    · exact (scanStep_keeps hk).cfg_eq
  · rcases whenCmdIdle_next h with rfl | hk
    · rfl
    · exact (dispatchBody_keeps hk).cfg_eq

theorem resume_cfg {a : Agent} (h : resume a s = .next t) : t.cfg = s.cfg := by
  unfold resume at h
  split at h
  · exact (cmdResume_keeps h).cfg_eq
  · have hr := bridgeResume_regular s
    rw [h] at hr; exact hr.cfg_eq
  · cases h; rfl

/-- A presented encoding is an instruction called for its caller, an ignored payload, a SCAN where no frame begins, or nothing the block has (R182, R300). -/
theorem runEncoded_cases (e : Encoded) (s : State) :
    (∃ i, runEncoded e s = runCalled i s) ∨
    (∃ ok cause, runEncoded e s = whenCaller ok (execInvalid cause s)) ∨
    runEncoded e s = .next s ∨ ∃ err, runEncoded e s = .refused (.undecodable err) := by
  unfold runEncoded
  split
  · exact .inl ⟨_, rfl⟩
  · unfold runUndecodable
    split
    · exact .inr (.inl ⟨_, _, rfl⟩)
    · exact .inl ⟨_, rfl⟩
    · split_ifs
      · exact .inr (.inr (.inr ⟨_, rfl⟩))
      · exact .inr (.inr (.inl rfl))

theorem runEncoded_cfg {e : Encoded} (h : runEncoded e s = .next t) : t.cfg = s.cfg := by
  rcases runEncoded_cases e s with ⟨i, he⟩ | ⟨ok, cause, he⟩ | he | ⟨err, he⟩ <;> rw [he] at h
  · exact exec_cfg (runCalled_next h)
  · have hr := execInvalid_regular cause s
    rw [whenCaller_next h] at hr; exact hr.cfg_eq
  · cases h; rfl
  · cases h

theorem runChoice_cfg {ch : Choice} (h : runChoice ch s = .next t) : t.cfg = s.cfg := by
  cases ch with
  | call e => exact runEncoded_cfg h
  | resume a => exact resume_cfg h

end

/-- Settles O59: taking the input keeps the configuration, and so does whatever is chosen. -/
theorem stepKeepsConfiguration : Obligations.StepKeepsConfiguration := by
  unfold Obligations.StepKeepsConfiguration
  intro s t h
  unfold step stepOnce at h
  split at h
  · exact (runChoice_cfg h).trans (nextStimulus_cfg s)
  · cases h

/-! ### Written bytes and no fault -/

section
variable {s : State}

/-- The first bytes of a string that was written whole were written too. -/
theorem Memory.readSeq_shorter {m : Memory} {i n k : Nat} {p : List Byte} (h : m.readSeq i k = some p) (hn : n ≤ k) :
    ∃ q, m.readSeq i n = some q := by
  induction n generalizing i k p with
  | zero => exact ⟨[], rfl⟩
  | succ n ih =>
    obtain ⟨k, rfl⟩ : ∃ l, k = l + 1 := ⟨k - 1, by omega⟩
    simp only [Memory.readSeq] at h ⊢
    split at h
    · rename_i b bs hb hbs
      obtain ⟨q, hq⟩ := ih hbs (by omega)
      exact ⟨b :: q, by rw [hb, hq]⟩
    · cases h

theorem payload_written {n : Nat} (h : s.payloadOk) (hn : n ≤ s.cmdLen) : ∃ p, s.payload n = some p := by
  obtain ⟨_, p, hp⟩ := h
  obtain ⟨q, hq⟩ := Memory.readSeq_shorter hp hn
  exact ⟨q, by rw [State.payload, if_pos hn, hq]⟩

theorem dispatchBody_regular {n : Nat} (h : s.payloadOk) (hn : n ≤ s.cmdLen) : s.Regular (dispatchBody n s) := by
  obtain ⟨p, hp⟩ := payload_written h hn
  rcases dispatchBody_cases n s with ⟨hnone, _⟩ | ⟨_, cause, _, _, e⟩ | ⟨_, cmd, _, _, e⟩
  · rw [hp] at hnone; cases hnone
  · rw [e]; exact (ignoreCommand_keeps cause s).cfg_eq
  · rw [e]; exact (commandBody_keeps cmd s).cfg_eq

theorem dispatchBody_ne_fault (n : Nat) (s : State) (f : Fault) : dispatchBody n s ≠ .fault f := by
  rcases dispatchBody_cases n s with ⟨_, e⟩ | ⟨_, _, _, _, e⟩ | ⟨_, _, _, _, e⟩ <;> rw [e] <;> exact nofun

/-- An accepted payload that fits CMD is dispatched: DISPATCH reads what SCAN has just copied (R153). -/
theorem acceptFrame_regular {p : List Byte} (h : p.length ≤ s.cfg.cmdMax) : s.Regular (acceptFrame p s) := by
  cases e : acceptFrame p s with
  | next t => exact (acceptFrame_keeps e).1.cfg_eq
  | fault f => rw [acceptFrame_next h] at e; cases e
  | refused r => rw [acceptFrame_next h] at e; cases e

/-- R12: a payload whose frame fits the ring fits CMD. -/
theorem payload_le_cmdMax {n : Nat} {c : Config} (h : c.payloadFits) (hn : c.ovh + n ≤ c.cap - 1) : n ≤ c.cmdMax := by
  unfold Config.payloadFits at h
  omega

theorem scanStep_regular (hu : s.unreadOk) (hf : s.cfg.payloadFits) : s.Regular (scanStep s) := by
  obtain ⟨u, hu⟩ := hu
  rcases scanStep_cases s with ⟨hnone, _⟩ | ⟨bs, o, _, _, e⟩ | ⟨bs, seq, p, _, hp, e⟩
  · rw [hu] at hnone; cases hnone
  · rw [e]; exact (scanReject_keeps o s).cfg_eq
  · rw [e]; exact acceptFrame_regular (payload_le_cmdMax hf (scanBytes_length hp).2)

theorem processStep_regular {rest : List CmdFrame} (hu : s.unreadOk) (hf : s.cfg.payloadFits) : s.Regular (processStep rest s) := by
  obtain ⟨u, hu⟩ := hu
  rcases processStep_cases rest s with ⟨hnone, _⟩ | ⟨bs, o, _, _, e⟩ | ⟨bs, seq, p, _, hp, e⟩
  · rw [hu] at hnone; cases hnone
  · rw [e]; exact (scanReject_keeps o s).cfg_eq
  · rw [e]
    exact (acceptFrame_regular (s := { s with cmdctx := .process :: rest }) (payload_le_cmdMax hf (scanBytes_length hp).2)).of_cfg rfl

/-- FRAME waits for its bytes to be unread, so a frame it accepts fits the ring (R150). -/
theorem execFrame_regular (seq : Nat) {p : List Byte} (hi : s.indicesOk) (hf : s.cfg.payloadFits) : s.Regular (execFrame seq p s) := by
  obtain ⟨hrd, hwr, _⟩ := hi
  have hused : s.used < s.cfg.cap := State.used_lt ⟨hrd, hwr⟩
  apply whenParserIdle_regular
  split_ifs
  · exact rfl
  · exact acceptFrame_regular (payload_le_cmdMax hf (by omega))

theorem cmdResume_regular (hu : s.unreadOk) (hf : s.cfg.payloadFits) : s.Regular (cmdResume s) := by
  have hkeeps : ∀ t, cmdResume s = .next t → s.Regular (cmdResume s) := fun t h => by
    rw [h]; exact (cmdResume_keeps h).cfg_eq
  rcases cmdResume_cases s with e | ⟨_, ⟨rest, _, _, e⟩ | ⟨_, _, _, _, e⟩ | ⟨_, _, e⟩ | ⟨_, _, _, e⟩ | ⟨_, _, _, e⟩ | ⟨_, _, _, e⟩⟩
  case inr.inl => rw [e]; exact processStep_regular hu hf
  all_goals exact hkeeps _ e

theorem exec_regular {i : Instr} (h : s.Inv) (hf : s.cfg.payloadFits) (hd : ∀ n, i = .dispatch n → n ≤ s.cmdLen) :
    s.Regular (exec i s) := by
  rcases exec_regular_or_reads i s with hr | ⟨seq, p, rfl⟩ | rfl | rfl | ⟨n, rfl⟩
  · exact hr
  · exact execFrame_regular seq h.indices hf
  · exact whenParserIdle_regular (processStep_regular h.unread hf)
  · exact whenParserIdle_regular (scanStep_regular h.unread hf)
  · exact whenCmdIdle_regular (dispatchBody_regular h.payload (hd n rfl))

/-- A DISPATCH past the copied payload is refused, so it is no fault either (R26). -/
theorem execDispatch_ne_fault (n : Nat) (s : State) (f : Fault) : execDispatch n s ≠ .fault f := by
  unfold execDispatch
  rcases whenCmdIdle_cases (s := s) (k := dispatchBody n s) with e | ⟨_, e⟩ <;> rw [e]
  · exact nofun
  · exact dispatchBody_ne_fault n s f

theorem exec_ne_fault (h : s.Inv) (hf : s.cfg.payloadFits) (i : Instr) (f : Fault) : exec i s ≠ .fault f := by
  by_cases hd : ∃ n, i = .dispatch n
  · obtain ⟨n, rfl⟩ := hd
    exact execDispatch_ne_fault n s f
  · exact (exec_regular h hf fun n hn => absurd ⟨n, hn⟩ hd).ne_fault f

theorem whenCaller_ne_fault {k : Res} {f : Fault} (ok : Bool) (h : k ≠ .fault f) : whenCaller ok k ≠ .fault f := by
  rcases whenCaller_cases (k := k) ok with ⟨_, e⟩ | ⟨_, e⟩ <;> rw [e]
  · exact h
  · exact nofun

theorem runEncoded_ne_fault (h : s.Inv) (hf : s.cfg.payloadFits) (e : Encoded) (f : Fault) : runEncoded e s ≠ .fault f := by
  rcases runEncoded_cases e s with ⟨i, he⟩ | ⟨ok, cause, he⟩ | he | ⟨err, he⟩ <;> rw [he]
  · exact whenCaller_ne_fault _ (exec_ne_fault h hf i f)
  · exact whenCaller_ne_fault _ ((execInvalid_regular cause s).ne_fault f)
  · exact nofun
  · exact nofun

theorem resume_regular (h : s.Inv) (hf : s.cfg.payloadFits) (a : Agent) : s.Regular (resume a s) := by
  unfold resume
  split
  · exact cmdResume_regular h.unread hf
  · exact bridgeResume_regular s
  · exact waits_regular

theorem runChoice_ne_fault (h : s.Inv) (hf : s.cfg.payloadFits) (ch : Choice) (f : Fault) : runChoice ch s ≠ .fault f := by
  cases ch with
  | call e => exact runEncoded_ne_fault h hf e f
  | resume a => exact (resume_regular h hf a).ne_fault f

theorem step_ne_fault (h : s.Inv) (hf : s.cfg.payloadFits) (f : Fault) : step s ≠ .fault f := by
  unfold step stepOnce
  split
  · exact runChoice_ne_fault (nextStimulus_inv h) (by rwa [nextStimulus_cfg]) _ f
  · exact nofun

end

/-- Settles O60: every answer from an invariant state is regular, but for a DISPATCH past the copied payload, which is no fault. -/
theorem wellFormedConfigurationNeverFaults : Obligations.WellFormedConfigurationNeverFaults := by
  unfold Obligations.WellFormedConfigurationNeverFaults
  intro s h hf
  exact ⟨step_ne_fault h hf, (cmdResume_regular h.unread hf).ne_unwrittenRead, fun i hd => (exec_regular h hf hd).ne_unwrittenRead⟩

end Sys2Proof.Machine
end

section
/-! PROOFS. The family 10_state: every step keeps the block's invariant, what is enabled outside a running block, the frames of the command and the interrupt context, the queues and TX_INFLIGHT, and the step's inputs. -/

namespace Sys2Proof.Machine

/-! ### The invariant, part by part -/

section
variable {s t : State}

/-- The invariant speaks of neither the buffer, the result, the events nor the outputs. -/
theorem State.Inv.of_bookkeeping (h : s.Inv)
    (ht : t = { s with buf := t.buf, ret := t.ret, raised := t.raised, outputs := t.outputs }) : t.Inv := by
  rw [ht]
  exact { h with }

/-- CMDCTX does not stand between STOP's steps (R208). -/
def State.outsideStop (s : State) : Prop := ∀ f ∈ s.cmdctx.head?, f.inStop = false

/-- Outside STOP both enables say whether the bridge is STARTED (R40). -/
theorem State.enablesOk_iff (h : s.outsideStop) :
    s.enablesOk ↔ s.irqEn = decide (s.bst = .started) ∧ s.notifArmed = decide (s.bst = .started) := by
  unfold State.enablesOk
  split
  · rename_i hc
    simp [State.outsideStop, hc, CmdFrame.inStop] at h
  · rename_i hc
    simp [State.outsideStop, hc, CmdFrame.inStop] at h
  · rfl

theorem State.enablesOk_of_outside (h : s.outsideStop) (hi : s.irqEn = decide (s.bst = .started))
    (ha : s.notifArmed = decide (s.bst = .started)) : s.enablesOk := (State.enablesOk_iff h).2 ⟨hi, ha⟩

theorem State.enablesOk_congr (hc : t.cmdctx = s.cmdctx) (hi : t.irqEn = s.irqEn) (ha : t.notifArmed = s.notifArmed)
    (hb : t.bst = .started ↔ s.bst = .started) (h : s.enablesOk) : t.enablesOk := by
  simpa only [State.enablesOk, hc, hi, ha, hb] using h

/-- The stack from which CMDCTX calls a handler, with its lock: the empty one at IDLE, or SCAN's return (R46, R153). -/
def State.baseOk (s : State) (stack : List CmdFrame) : Prop :=
  (stack = [] ∧ s.lock = { owner := none, depth := 0 }) ∨ (scanTail s stack ∧ s.lock = { owner := some .cmdctx, depth := 1 })

theorem scanTail_iff {l : List CmdFrame} : scanTail s l ↔ ∃ plen, s.cfg.ovh + plen ≤ s.used ∧
    (l = [.scanReturn (s.cfg.ovh + plen) plen] ∨ l = [.scanReturn (s.cfg.ovh + plen) plen, .process]) := by
  constructor
  · intro h
    unfold scanTail at h
    split at h
    · obtain ⟨rfl, hu⟩ := h; exact ⟨_, hu, .inl rfl⟩
    · obtain ⟨rfl, hu⟩ := h; exact ⟨_, hu, .inr rfl⟩
    · exact h.elim
  · rintro ⟨plen, hu, rfl | rfl⟩ <;> exact ⟨rfl, hu⟩

theorem State.stackOk_of_base (h : s.baseOk s.cmdctx) : s.stackOk := by
  rcases h with ⟨hc, hl⟩ | ⟨ht, hl⟩
  · simp only [State.stackOk, hc, hl]
  · obtain ⟨plen, hu, hc | hc⟩ := scanTail_iff.1 ht <;> simp [State.stackOk, hc, hl, scanTail, hu]

theorem State.stackOk_of_handler {f : CmdFrame} {rest : List CmdFrame} (hc : s.cmdctx = f :: rest) (hf : f.isHandler = true)
    (hb : s.baseOk rest) (ho : rest = [] ∨ f.ofCommand = true) : s.stackOk := by
  rcases hb with ⟨rfl, hl⟩ | ⟨ht, hl⟩
  · simp [State.stackOk, hc, hf, hl]
  · have hne : rest ≠ [] := by rintro rfl; exact ht
    obtain ⟨g, rest, rfl⟩ := List.exists_cons_of_ne_nil hne
    simp only [State.stackOk, hc]
    exact ⟨.inr ⟨hf, ho.resolve_left hne, ht⟩, hl⟩

/-- The stack is a base, a PROCESS between two SCANs, or a handler over a base (R46). -/
theorem State.stackOk_iff : s.stackOk ↔ s.baseOk s.cmdctx ∨
    (s.cmdctx = [.process] ∧ s.lock = { owner := none, depth := 0 }) ∨
    ∃ f rest, s.cmdctx = f :: rest ∧ f.isHandler = true ∧ s.baseOk rest ∧ (rest = [] ∨ f.ofCommand = true) := by
  constructor
  · intro h
    unfold State.stackOk at h
    split at h
    · exact .inl (.inl ⟨‹_›, h⟩)
    · rename_i f hc
      rcases h with ⟨rfl | hf, hl⟩ | ⟨ht, hl⟩
      · exact .inr (.inl ⟨hc, hl⟩)
      · exact .inr (.inr ⟨f, [], hc, hf, .inl ⟨rfl, hl⟩, .inl rfl⟩)
      · exact .inl (.inr ⟨hc ▸ ht, hl⟩)
    · rename_i f rest _ hc
      obtain ⟨ht | ⟨hf, ho, ht⟩, hl⟩ := h
      · exact .inl (.inr ⟨hc ▸ ht, hl⟩)
      · exact .inr (.inr ⟨f, rest, hc, hf, .inr ⟨ht, hl⟩, .inr ho⟩)
  · rintro (hb | ⟨hc, hl⟩ | ⟨f, rest, hc, hf, hb, ho⟩)
    · exact State.stackOk_of_base hb
    · simp [State.stackOk, hc, hl]
    · exact State.stackOk_of_handler hc hf hb ho

/-- Below a handler lies a base. -/
theorem State.stackOk_below {f : CmdFrame} {rest : List CmdFrame} (h : s.stackOk) (hc : s.cmdctx = f :: rest)
    (hf : f.isHandler = true) : s.baseOk rest ∧ (rest = [] ∨ f.ofCommand = true) := by
  rcases State.stackOk_iff.1 h with (⟨hn, _⟩ | ⟨ht, _⟩) | ⟨hp, _⟩ | ⟨g, r, hg, _, hb⟩
  · rw [hc] at hn; cases hn
  · obtain ⟨plen, _, he | he⟩ := scanTail_iff.1 ht <;> rw [hc] at he <;> cases he <;> cases hf
  · rw [hc] at hp; cases hp; cases hf
  · rw [hc] at hg; cases hg; exact hb

/-- At SCAN's return the frame's bytes are unread, LOCK is held once, and PROCESS or nothing lies below (R153). -/
theorem State.stackOk_scanReturn {len plen : Nat} {rest : List CmdFrame} (h : s.stackOk)
    (hc : s.cmdctx = .scanReturn len plen :: rest) :
    len ≤ s.used ∧ s.lock = { owner := some .cmdctx, depth := 1 } ∧ (rest = [] ∨ rest = [.process]) := by
  rcases State.stackOk_iff.1 h with (⟨hn, _⟩ | ⟨ht, hl⟩) | ⟨hp, _⟩ | ⟨g, r, hg, hf, _⟩
  · rw [hc] at hn; cases hn
  · obtain ⟨plen, hu, he | he⟩ := scanTail_iff.1 ht <;> rw [hc] at he <;> cases he
    · exact ⟨hu, hl, .inl rfl⟩
    · exact ⟨hu, hl, .inr rfl⟩
  · rw [hc] at hp; cases hp
  · rw [hc] at hg; cases hg; cases hf

/-- No frame of a base stands in STOP, and none is SEND's second step. -/
theorem State.baseOk.outside {l : List CmdFrame} (h : s.baseOk l) :
    (∀ f ∈ l.head?, f.inStop = false) ∧ ∀ cmd, .send2 cmd ∉ l := by
  rcases h with ⟨rfl, _⟩ | ⟨ht, _⟩
  · simp
  · obtain ⟨plen, _, rfl | rfl⟩ := scanTail_iff.1 ht <;> simp [CmdFrame.inStop]

theorem State.baseOk.no_send2_cons {f : CmdFrame} {rest : List CmdFrame} (h : s.baseOk rest) (hf : ∀ cmd, f ≠ .send2 cmd) :
    ∀ cmd, .send2 cmd ∉ f :: rest := fun cmd hm =>
  (List.mem_cons.1 hm).elim (fun e => hf cmd e.symm) (h.outside.2 cmd)

theorem State.baseOk.mono {l : List CmdFrame} (h : s.baseOk l) (hl : t.lock = s.lock) (hg : t.cfg = s.cfg)
    (hu : s.used ≤ t.used) : t.baseOk l := by
  rcases h with ⟨hn, h⟩ | ⟨ht, h⟩
  · exact .inl ⟨hn, hl.trans h⟩
  · obtain ⟨plen, hp, hs⟩ := scanTail_iff.1 ht
    exact .inr ⟨scanTail_iff.2 ⟨plen, by rw [hg]; omega, by rwa [hg]⟩, hl.trans h⟩

/-- More unread bytes do not hurt a frame that waits to be passed. -/
theorem State.stackOk_mono (h : s.stackOk) (hc : t.cmdctx = s.cmdctx) (hl : t.lock = s.lock) (hg : t.cfg = s.cfg)
    (hu : s.used ≤ t.used) : t.stackOk := by
  rw [State.stackOk_iff, hc, hl]
  rcases State.stackOk_iff.1 h with hb | hp | ⟨f, rest, hs, hf, hb, ho⟩
  · exact .inl (hb.mono hl hg hu)
  · exact .inr (.inl hp)
  · exact .inr (.inr ⟨f, rest, hs, hf, hb.mono hl hg hu, ho⟩)

/-- With CMDCTX at IDLE the empty stack is a base. -/
theorem State.Inv.base_idle (h : s.Inv) (hc : s.cmdctx = []) : s.baseOk s.cmdctx :=
  .inl ⟨hc, by simpa [State.stackOk, hc] using h.stack⟩

/-- Wherever BRIDGE is not at WAIT, ATOMIC_OPS is off (R46). -/
theorem State.Inv.atomicOps_off (h : s.Inv) (hb : s.bridge ≠ .wait) : s.cfg.atomicOps = false := by
  cases ha : s.cfg.atomicOps
  · rfl
  · exact absurd (h.atomic ha).1 hb

/-! ### Answers

What an operation's next state satisfies, where it answers with one; a fault or a refusal says nothing. -/

/-- If the answer is a next state, that state has the property. -/
def Answers (P : State → Prop) (k : Res) : Prop :=
  match k with
  | .next t => P t
  | .fault _ => True
  | .refused _ => True

variable {P : State → Prop} {k : Res}

@[simp] theorem answers_next : Answers P (.next t) ↔ P t := Iff.rfl

theorem answers_iff : Answers P k ↔ ∀ t, k = .next t → P t := by
  cases k <;> simp [Answers]

theorem Answers.of_eq (h : Answers P k) (e : k = .next t) : P t := answers_iff.1 h t e

theorem whenCmdIdle_answers (hw : P s) (hk : s.cmdReady → Answers P k) : Answers P (whenCmdIdle s k) := by
  rcases whenCmdIdle_cases (s := s) (k := k) with e | ⟨hr, e⟩ <;> rw [e]
  · exact hw
  · exact hk hr

theorem whenParserIdle_answers (hw : P s) (hk : s.cmdctx = [] → Answers P k) : Answers P (whenParserIdle s k) := by
  rcases whenParserIdle_cases (s := s) (k := k) with e | ⟨_, e⟩ | ⟨_, hc, _, e⟩ <;> rw [e]
  · exact hw
  · trivial
  · exact hk hc

theorem whenBridgeIdle_answers (hw : P s) (hk : s.bridgeReady → Answers P k) : Answers P (whenBridgeIdle s k) := by
  rcases whenBridgeIdle_cases (s := s) (k := k) with e | ⟨hr, e⟩ <;> rw [e]
  · exact hw
  · exact hk hr

theorem takeInterrupt_answers (hw : P s) (hk : Answers P k) : Answers P (takeInterrupt s k) := by
  rcases takeInterrupt_cases (s := s) (k := k) with e | ⟨_, e⟩ <;> rw [e]
  · exact hw
  · exact hk

/-! ### The egress half and the bridge task keep the invariant -/

/-- BRIDGE's marker moves to one its operations leave (R46). -/
theorem State.Inv.withBridge (h : s.Inv) {b : BridgePc} (hb : ({ s with bridge := b } : State).bridgeOk)
    (ha : s.cfg.atomicOps = true → b = .wait) : ({ s with bridge := b } : State).Inv :=
  { h with
    bridge := hb
    atomic := fun ho => ⟨ha ho, (h.atomic ho).2⟩ }

theorem formatInto_inv (h : s.Inv) (buf : List Byte) (n : Nat) : (formatInto buf n s).Inv :=
  { h with indices := ⟨h.indices.1, h.indices.2.1, Nat.mod_lt _ s.cfg.seqMod_pos⟩ }

theorem emitPacket_inv (h : s.Inv) {pkt : List Byte} (hp : pkt.length = s.cfg.pkt) (a : Bool) : (emitPacket pkt a s).Inv := by
  rcases emitPacket_cases pkt a s with ⟨_, e⟩ | ⟨_, hl, e⟩ | ⟨_, _, e⟩ <;> rw [e]
  · exact h.of_bookkeeping rfl
  · obtain ⟨htx, hrx, heg, htxWf, hrxWf, hegLen⟩ := h.queues
    refine { h with queues := ⟨htx, hrx, by simpa using hl, htxWf, hrxWf, fun q hq => ?_⟩ }
    rcases List.mem_append.1 hq with hq | hq
    · exact hegLen q hq
    · rw [List.mem_singleton.1 hq]; exact hp
  · exact h.of_bookkeeping rfl

theorem writeKeepAlive_inv (h : s.Inv) : (writeKeepAlive s).Inv := by
  unfold writeKeepAlive
  split
  · exact h.of_bookkeeping rfl
  · exact h

theorem formatNext_inv (h : s.Inv) (ha : s.cfg.atomicOps = false) (p : List Byte) {left : List (List Byte)}
    (hl : ∀ q ∈ left, s.cfg.frameFits s.cfg.pkt q.length) : Answers State.Inv (formatNext p left s) := by
  refine answers_iff.2 fun t e => ?_
  obtain ⟨hp, rfl⟩ := formatNext_next e
  exact (formatInto_inv h (packetBuffer s.cfg p) p.length).withBridge ⟨packetBytes_length hp.1, hl⟩ (by simp [ha])

theorem reportAtOnce_inv (h : s.Inv) (a : Bool) (ps : List (List Byte)) : Answers State.Inv (reportAtOnce a ps s) := by
  induction ps generalizing a s with
  | nil => exact h.withBridge trivial fun _ => rfl
  | cons p ps ih =>
    by_cases hp : s.cfg.frameFits s.cfg.pkt p.length
    · rw [reportAtOnce_fits a ps hp]
      exact ih (emitPacket_inv (formatInto_inv h (packetBuffer s.cfg p) p.length) (packetBytes_length hp.1) a) _
    · rw [reportAtOnce, if_neg hp]; trivial

/-- A REPORT begins from the invariant; the payloads left for further steps have to fit. -/
theorem beginReport_inv (h : s.Inv) {ps : List (List Byte)} (hl : ∀ q ∈ ps.tail, s.cfg.frameFits s.cfg.pkt q.length) :
    Answers State.Inv (beginReport ps s) := by
  unfold beginReport
  cases ha : s.cfg.atomicOps
  · cases ps with
    | nil => exact h
    | cons p ps => exact formatNext_inv h ha p hl
  · exact reportAtOnce_inv h _ ps

theorem execReport_inv (h : s.Inv) (m : CanMessage) : Answers State.Inv (execReport m s) := by
  refine whenBridgeIdle_answers h fun _ => ?_
  split
  · rename_i ps hps
    exact beginReport_inv h fun q hq => (reportPayloads_fit h.sizes hps).2 q (List.mem_of_mem_tail hq)
  · trivial

theorem emitPayload_inv (h : s.Inv) (p : List Byte) : Answers State.Inv (emitPayload p s) :=
  whenBridgeIdle_answers h fun _ => beginReport_inv h (by simp)

theorem emitFragment_inv (h : s.Inv) (p : List Byte) : Answers State.Inv (emitFragment p s) := by
  unfold emitFragment
  split
  · exact emitPayload_inv h p
  · exact whenBridgeIdle_answers h fun _ => trivial

theorem execFormatFrame_inv (h : s.Inv) (call : FormatCall) : Answers State.Inv (execFormatFrame call s) := by
  unfold execFormatFrame
  split_ifs
  · exact h
  · exact (formatInto_inv h _ _).of_bookkeeping rfl
  · trivial

theorem execEmit_inv (h : s.Inv) (pkt : List Byte) (a : Bool) : Answers State.Inv (execEmit pkt a s) := by
  refine whenBridgeIdle_answers h fun _ => ?_
  split_ifs with hp
  · exact emitPacket_inv h hp a
  · trivial

theorem execTransportReady_inv (h : s.Inv) : Answers State.Inv (execTransportReady s) := by
  unfold execTransportReady
  rcases popOldest_cases s.egq with ⟨_, e⟩ | ⟨pkt, q, hq, e⟩ <;> rw [e] <;> split_ifs
  · exact writeKeepAlive_inv h
  · exact h
  · obtain ⟨htx, hrx, heg, htxWf, hrxWf, hegLen⟩ := h.queues
    rw [hq] at heg hegLen
    exact { h with queues := ⟨htx, hrx, by simp at heg ⊢; omega, htxWf, hrxWf, fun p hp => hegLen p (.tail _ hp)⟩ }
  · exact h

theorem execKeepAlive_inv (h : s.Inv) : Answers State.Inv (execKeepAlive s) := by
  unfold execKeepAlive
  split_ifs
  · exact writeKeepAlive_inv h
  · exact h

theorem reportStep_inv (h : s.Inv) : Answers State.Inv (reportStep s) := by
  have hb := h.bridge
  unfold State.bridgeOk at hb
  rcases reportStep_cases s with ⟨p, ps, hm, e⟩ | ⟨pkt, left, hm, e⟩ | ⟨_, e⟩ | e <;> rw [e]
  · have hf : ∀ q ∈ ps, s.cfg.frameFits s.cfg.pkt q.length := by
      rcases hm with hm | hm <;> rw [hm] at hb <;> exact fun q hq => hb.2 q (.tail _ hq)
    exact formatNext_inv h (h.atomicOps_off (by rcases hm with hm | hm <;> simp [hm])) p hf
  · rw [hm] at hb
    refine (emitPacket_inv h hb.1 _).withBridge ?_ ?_
    · cases left with
      | nil => trivial
      | cons p ps => exact ⟨nofun, by simpa using hb.2⟩
    · simp [h.atomicOps_off (by simp [hm])]
  · exact h.withBridge trivial fun _ => rfl
  · exact h

/-! #### The bridge task -/

/-- The oldest received message leaves RXQ. -/
theorem State.Inv.popRxq (h : s.Inv) {m : CanMessage} {q : List CanMessage} (hq : s.rxq = m :: q) : ({ s with rxq := q } : State).Inv := by
  obtain ⟨htx, hrx, heg, htxWf, hrxWf, hegLen⟩ := h.queues
  rw [hq] at hrx hrxWf
  exact { h with queues := ⟨htx, by simp at hrx ⊢; omega, heg, htxWf, fun m hm => hrxWf m (.tail _ hm), hegLen⟩ }

theorem taskRxStep_inv (h : s.Inv) : Answers State.Inv (taskRxStep s) := by
  unfold taskRxStep
  rcases popOldest_cases s.rxq with ⟨_, e⟩ | ⟨m, q, hq, e⟩ <;> rw [e] <;> dsimp only
  · exact h.withBridge trivial fun _ => rfl
  · split
    · rename_i ps hps
      have hfit := reportPayloads_fit h.sizes hps
      split_ifs with ha
      · exact beginReport_inv (h.popRxq hq) fun q hq => hfit.2 q (List.mem_of_mem_tail hq)
      · exact (h.popRxq hq).withBridge hfit (by simp [ha])
    · trivial

theorem emitPacket_setBridge (pkt : List Byte) (a : Bool) (s : State) (b : BridgePc) :
    emitPacket pkt a { s with bridge := b } = { emitPacket pkt a s with bridge := b } := by
  refine (emitPacket_set pkt a s s.buf s.seq b).trans ?_
  rw [emitPacket_frame]

/-- A report that is one step does not look at BRIDGE's marker. -/
theorem reportAtOnce_setBridge (a : Bool) (ps : List (List Byte)) (s : State) (b : BridgePc) :
    reportAtOnce a ps { s with bridge := b } = reportAtOnce a ps s := by
  induction ps generalizing a s with
  | nil => rfl
  | cons p ps ih =>
    by_cases hp : s.cfg.frameFits s.cfg.pkt p.length
    · rw [reportAtOnce_fits (s := { s with bridge := b }) a ps hp, reportAtOnce_fits a ps hp]
      have e := emitPacket_setBridge (packetBytes s.cfg s.seq p) a { s with
        buf := packetBytes s.cfg s.seq p, seq := (s.seq + 1) % s.cfg.seqMod } b
      exact (congrArg (reportAtOnce s.env.transportAgain ps) e).trans (ih _ _)
    · simp only [reportAtOnce, if_neg hp]

/-- Neither does TASK_RX's step where it takes its REPORT along (R46). -/
theorem taskRxStep_setBridge (ha : s.cfg.atomicOps = true) (b : BridgePc) : taskRxStep { s with bridge := b } = taskRxStep s := by
  unfold taskRxStep
  rcases popOldest_cases s.rxq with ⟨_, e⟩ | ⟨m, q, _, e⟩ <;> simp only [e]
  cases reportPayloads s.cfg m with
  | ok ps =>
    simp only [ha, if_true, beginReport]
    exact reportAtOnce_setBridge _ ps { s with rxq := q } b
  | error r => rfl

theorem State.queuesOk_popTx (h : s.queuesOk) : s.txq.tail.length ≤ Config.txqCap ∧ ∀ m ∈ s.txq.tail, m.wf := by
  obtain ⟨htx, _, _, htxWf, _⟩ := h
  exact ⟨by rw [List.length_tail]; omega, fun m hm => htxWf m (List.mem_of_mem_tail hm)⟩

/-- What a turn that serves TX leaves when TASK_TX is done (R231, R240): a message still queued has one in flight before it. -/
theorem State.Inv.servedTx (h : s.Inv) (hb : s.bridge = .wait) (os : List Output) : ({ s with
    notif := Notif.clear, txq := s.txq.tail, txInflight := !s.txq.isEmpty, outputs := os } : State).Inv := by
  obtain ⟨_, hrx, heg, _, hrxWf, hegLen⟩ := h.queues
  obtain ⟨ht1, ht4⟩ := State.queuesOk_popTx h.queues
  refine { h with queues := ⟨ht1, hrx, heg, ht4, hrxWf, hegLen⟩, atomic := fun ha => ⟨hb, (h.atomic ha).2.1, fun hne => .inl ?_⟩ }
  cases hq : s.txq with
  | nil => simp [hq] at hne
  | cons m q => rfl

/-- The whole turn of the bridge task, one step with ATOMIC_OPS = on (R46, R238). -/
theorem bridgeTurn_inv (h : s.Inv) (ha : s.cfg.atomicOps = true) (hn : s.notif.isEmpty = false) : Answers State.Inv (bridgeTurn s) := by
  have hb : s.bridge = .wait := (h.atomic ha).1
  cases ht : s.notif.txReady
  · have hr : s.notif.rxAvail = true := by simpa [Notif.isEmpty, ht] using hn
    have hc : ({ s with notif := Notif.clear } : State).Inv := { h with
      atomic := fun ho => ⟨hb, (h.atomic ho).2.1, fun hq => .inl (by simpa [ht] using (h.atomic ho).2.2 hq)⟩ }
    have e : bridgeTurn s = taskRxStep { s with notif := Notif.clear, bridge := .rx s.notif } := by
      simp [bridgeTurn, ht, hr, taskWaitStep, State.clearNotif]
    rw [e, taskRxStep_setBridge (s := { s with notif := Notif.clear }) ha]
    exact taskRxStep_inv hc
  · have hs := h.servedTx hb (s.outputs ++ s.txq.head?.toList.map .ctrlSubmit)
    rw [bridgeTurn_served ha ht]
    split_ifs with hr
    · have e := taskRxStep_setBridge (s := { s with
        notif := Notif.clear, txq := s.txq.tail, txInflight := !s.txq.isEmpty
        outputs := s.outputs ++ s.txq.head?.toList.map .ctrlSubmit }) ha (afterTx s.notif)
      rw [e]
      exact taskRxStep_inv hs
    · exact hs.withBridge (by simp [afterTx, hr, State.bridgeOk]) fun _ => by simp [afterTx, hr]

theorem execTaskWait_inv (h : s.Inv) : Answers State.Inv (execTaskWait s) := by
  unfold execTaskWait
  split_ifs with hg ha
  · exact bridgeTurn_inv h ha (by simp at hg; exact hg.2)
  · have hn : s.notif.isEmpty = false := by simp at hg; exact hg.2
    refine State.Inv.withBridge (s := s.clearNotif) { h with atomic := fun ho => absurd ho ha } ?_ fun ho => absurd ho ha
    cases ht : s.notif.txReady
    · simpa [State.bridgeOk, Notif.isEmpty, ht] using hn
    · simp [State.bridgeOk, ht]
  · exact h

/-- After TASK_TX the task serves RX only if its bit was taken (R231). -/
theorem State.bridgeOk_afterTx {pending : Notif} (hb : s.bridge = afterTx pending) : s.bridgeOk := by
  unfold State.bridgeOk
  unfold afterTx at hb
  split_ifs at hb with hr <;> rw [hb]
  · exact hr
  · trivial

/-- TASK_TX's two steps, ATOMIC_OPS = off (R231). -/
theorem execTaskTx_inv (h : s.Inv) : Answers State.Inv (execTaskTx s) := by
  unfold execTaskTx
  split_ifs
  swap
  · exact h
  split
  · rename_i pending hm
    have ha := h.atomicOps_off (by simp [hm])
    have hb := h.bridge
    simp only [State.bridgeOk, hm] at hb
    obtain ⟨htx, hrx, heg, htxWf, hrxWf, hegLen⟩ := h.queues
    simp only [taskTxStep1, ha, Bool.false_eq_true, if_false, answers_next]
    rcases popOldest_cases s.txq with ⟨hq, e⟩ | ⟨m, q, hq, e⟩ <;> rw [e] <;> rw [hq] at htx htxWf
    · exact { h with
        queues := ⟨htx, hrx, heg, htxWf, hrxWf, hegLen⟩, bridge := ⟨hb, by simp⟩, atomic := fun ho => by simp [ha] at ho }
    · exact { h with
        queues := ⟨by simp at htx ⊢; omega, hrx, heg, fun m hm => htxWf m (.tail _ hm), hrxWf, hegLen⟩
        bridge := ⟨hb, by simpa using htxWf m (.head _)⟩, atomic := fun ho => by simp [ha] at ho }
  · rename_i pending e hm
    have ha := h.atomicOps_off (by simp [hm])
    have hb (u : State) (hu : u.bridge = afterTx pending) : u.bridgeOk := State.bridgeOk_afterTx hu
    cases e <;> exact { h with bridge := hb _ rfl, atomic := fun ho => by simp [taskTxStep2, ha] at ho }
  all_goals exact h

theorem execTaskRx_inv (h : s.Inv) : Answers State.Inv (execTaskRx s) := by
  rcases execTaskRx_cases s with e | ⟨_, ⟨_, _, e⟩ | e⟩ <;> rw [e]
  · exact h
  · exact taskRxStep_inv h
  · exact reportStep_inv h

theorem bridgeResume_inv (h : s.Inv) : Answers State.Inv (bridgeResume s) := by
  rcases bridgeResume_cases s with e | e | e <;> rw [e]
  · exact execTaskWait_inv h
  · exact execTaskTx_inv h
  · exact execTaskRx_inv h

/-! ### Interrupts and INIT keep the invariant -/

theorem State.Inv.signalTxReady (h : s.Inv) : s.signalTxReady.Inv :=
  { h with atomic := fun ho => ⟨(h.atomic ho).1, (h.atomic ho).2.1, fun _ => .inr rfl⟩ }

theorem rxHandler_inv (h : s.Inv) {m : CanMessage} (hm : m.wf) : (rxHandler m s).Inv := by
  unfold rxHandler
  obtain ⟨htx, hrx, heg, htxWf, hrxWf, hegLen⟩ := h.queues
  rcases pushBounded_cases Config.rxqCap s.rxq m with ⟨hl, e⟩ | ⟨_, e⟩ <;> rw [e]
  · refine { h with queues := ⟨htx, by simpa using hl, heg, htxWf, fun x hx => ?_, hegLen⟩ }
    rcases List.mem_append.1 hx with hx | hx
    · exact hrxWf x hx
    · rw [List.mem_singleton.1 hx]; exact hm
  · exact { h with }

theorem execRxIsr_inv (h : s.Inv) (m : CanMessage) : Answers State.Inv (execRxIsr m s) := by
  refine takeInterrupt_answers h ?_
  split_ifs with hm
  · exact rxHandler_inv h hm
  · trivial

theorem execTxeIsr_inv (h : s.Inv) : Answers State.Inv (execTxeIsr s) := takeInterrupt_answers h h.signalTxReady

/-- What INIT creates (R334, R50) satisfies the invariant, whatever stood before, in READY and in HALTED. -/
theorem createAll_inv (hs : s.cfg.sizesOk) {b : BridgeState} (hb : b = .ready ∨ b = .halted) :
    ({ createAll s with bst := b } : State).Inv := by
  have hcap : 0 < s.cfg.cap := by have := hs.1; omega
  exact
  { sizes := hs
    memory := ⟨.nil, .nil, nofun, nofun⟩
    payload := ⟨Nat.zero_le _, [], rfl⟩
    indices := ⟨hcap, hcap, s.cfg.seqMod_pos⟩
    unread := ⟨[], by simp [State.unread, State.used, createAll, Memory.readRing]⟩
    queues := ⟨Nat.zero_le _, Nat.zero_le _, Nat.zero_le _, nofun, nofun, nofun⟩
    timing := by simpa [State.timingOk, createAll] using hb
    enables := by rcases hb with rfl | rfl <;> exact ⟨rfl, rfl⟩
    stack := rfl
    bridge := trivial
    atomic := fun _ => ⟨rfl, nofun, fun h => absurd rfl h⟩ }

theorem execInit_inv (h : s.Inv) (ok : Bool) : Answers State.Inv (execInit ok s) := by
  unfold execInit
  split_ifs
  · exact h
  · exact createAll_inv h.sizes (.inl rfl)
  · exact (createAll_inv h.sizes (.inr rfl)).of_bookkeeping rfl


/-! ### The command context keeps the invariant -/

/-- A return ends the SCAN on top of the stack, whose bytes are unread and whose LOCK is held once (R153), or only hands on a result. -/
theorem cmdReturn_inv (h : s.Inv) (r : Ret) : (cmdReturn r s).Inv := by
  rcases cmdReturn_cases r s with ⟨len, plen, rest, hc, e⟩ | ⟨_, e⟩ <;> rw [e]
  · obtain ⟨hu, hl, hrest⟩ := State.stackOk_scanReturn h.stack hc
    obtain ⟨hrd, hwr, hseq⟩ := h.indices
    obtain ⟨bs, hbs⟩ := h.unread
    have hfree : s.lock.release = { owner := none, depth := 0 } := by rw [hl]; rfl
    have hout : s.outsideStop := by simp [State.outsideStop, hc, CmdFrame.inStop]
    have hen := (State.enablesOk_iff hout).1 h.enables
    exact { h with
      indices := ⟨(State.advanceRd_ringOk len ⟨hrd, hwr⟩).1, hwr, hseq⟩
      unread := ⟨_, State.advanceRd_unread len ⟨hrd, hwr⟩ hbs hu⟩
      enables := by rcases hrest with rfl | rfl <;> exact hen
      stack := by rcases hrest with rfl | rfl <;> simp [State.stackOk, hfree]
      atomic := fun ha => ⟨(h.atomic ha).1, by rcases hrest with rfl | rfl <;> simp, (h.atomic ha).2.2⟩ }
  · exact h.of_bookkeeping rfl

theorem ignoreCommand_inv (h : s.Inv) (cause : InvalidCause) : (ignoreCommand cause s).Inv :=
  cmdReturn_inv (h.of_bookkeeping rfl) _

/-- CMDCTX calls a handler that has a further step, other than STOP (R46). -/
theorem State.Inv.pushHandler (h : s.Inv) {f : CmdFrame} (hb : s.baseOk s.cmdctx) (hf : f.isHandler = true) (hs : f.inStop = false)
    (ho : s.cmdctx = [] ∨ f.ofCommand = true) (h2 : ∀ cmd, f = .send2 cmd → s.cfg.atomicOps = false) : (s.pushFrame f).Inv :=
  { h with
    enables := by
      obtain ⟨hi, ha⟩ := (State.enablesOk_iff hb.outside.1).1 h.enables
      exact State.enablesOk_of_outside (by simpa [State.outsideStop] using hs) hi ha
    stack := State.stackOk_of_handler (s := s.pushFrame f) rfl hf hb ho
    atomic := fun ha => ⟨(h.atomic ha).1, hb.no_send2_cons fun cmd e => by simp [h2 cmd e] at ha, (h.atomic ha).2.2⟩ }

/-- A handler other than STOP takes its last step with its own frame gone (R46). -/
theorem State.Inv.popHandler (h : s.Inv) {f : CmdFrame} {rest : List CmdFrame} (hc : s.cmdctx = f :: rest) (hf : f.isHandler = true)
    (hs : f.inStop = false) : ({ s with cmdctx := rest } : State).Inv := by
  have hb : s.baseOk rest := (State.stackOk_below h.stack hc hf).1
  exact { h with
    enables := by
      obtain ⟨hi, ha⟩ := (State.enablesOk_iff (by simpa [State.outsideStop, hc] using hs)).1 h.enables
      exact State.enablesOk_of_outside hb.outside.1 hi ha
    stack := State.stackOk_of_base (s := { s with cmdctx := rest }) hb
    atomic := fun ha => ⟨(h.atomic ha).1, hb.outside.2, (h.atomic ha).2.2⟩ }

/-! #### CONFIGURE, START, STOP -/

/-- CONFIGURE is applied only where the bridge is not STARTED, so the enables stay as they are (R201, D20). -/
theorem configureStep_inv (h : s.Inv) (arb data : BitrateName) : (configureStep arb data s).1.Inv := by
  rcases configureStep_cases arb data s with ⟨_, e⟩ | ⟨_, _, e⟩ | ⟨a, d, hi, _, _, ⟨_, e⟩ | ⟨_, e⟩⟩ <;> rw [e]
  · exact h.of_bookkeeping rfl
  · exact h.of_bookkeeping rfl
  · have hns : s.bst ≠ .started := by simp [State.ctrlIdle] at hi; exact hi.2
    exact { h with
      timing := by simp [State.timingOk]
      enables := State.enablesOk_congr (s := s) rfl rfl rfl (by simp [hns]) h.enables }
  · exact h.of_bookkeeping rfl

theorem startStep_inv (h : s.Inv) (hout : s.outsideStop) : (startStep s).1.Inv := by
  rcases startStep_cases s with ⟨_, e⟩ | ⟨hb, _, _, e⟩ | ⟨_, o, e⟩ <;> rw [e]
  · exact h.of_bookkeeping rfl
  · exact { h with
      timing := by simpa [State.timingOk, hb] using h.timing
      enables := State.enablesOk_of_outside hout rfl rfl }
  · exact h.of_bookkeeping rfl

theorem stopStep1_inv (h : s.Inv) {cmd : Bool} (hb : s.baseOk s.cmdctx) (ho : s.cmdctx = [] ∨ cmd = true) : (stopStep1 cmd s).Inv :=
  { h with
    enables := ⟨rfl, ((State.enablesOk_iff hb.outside.1).1 h.enables).2⟩
    stack := State.stackOk_of_handler (s := stopStep1 cmd s) rfl rfl hb ho
    atomic := fun ha => ⟨(h.atomic ha).1, hb.no_send2_cons nofun, (h.atomic ha).2.2⟩ }

theorem stopStep2_inv (h : s.Inv) {cmd : Bool} {rest : List CmdFrame} (hc : s.cmdctx = .stop2 cmd :: rest) :
    (stopStep2 cmd { s with cmdctx := rest }).Inv := by
  obtain ⟨hb, ho⟩ := State.stackOk_below h.stack hc rfl
  have hen := h.enables
  simp only [State.enablesOk, hc] at hen
  exact { h with
    enables := ⟨hen.1, rfl⟩
    stack := State.stackOk_of_handler (s := stopStep2 cmd { s with cmdctx := rest }) rfl rfl hb ho
    atomic := fun ha => ⟨(h.atomic ha).1, hb.no_send2_cons nofun, (h.atomic ha).2.2⟩ }

/-- STOP ends with both enables off and the bridge not STARTED (R208). -/
theorem stopStep3_inv (h : s.Inv) {cmd : Bool} {rest : List CmdFrame} (hc : s.cmdctx = .stop3 cmd :: rest) :
    (stopStep3 cmd { s with cmdctx := rest }).Inv := by
  have hb : s.baseOk rest := (State.stackOk_below h.stack hc rfl).1
  obtain ⟨hi, ha⟩ : s.irqEn = false ∧ s.notifArmed = false := by simpa [State.enablesOk, hc] using h.enables
  have hns : (if s.bst = .started then .configured else s.bst) ≠ .started := by split_ifs <;> simp [*]
  have htm : s.timing = none ↔ (if s.bst = .started then .configured else s.bst) = .ready ∨
      (if s.bst = .started then .configured else s.bst) = .halted := by
    rw [show s.timing = none ↔ _ from h.timing]
    split_ifs with hs <;> simp [hs]
  have hstop : State.Inv { s with cmdctx := rest, bst := if s.bst = .started then .configured else s.bst } :=
    { h with
      timing := htm
      enables := State.enablesOk_of_outside hb.outside.1 (by simp [hi, hns]) (by simp [ha, hns])
      stack := State.stackOk_of_base (s := { s with cmdctx := rest }) hb
      atomic := fun ha => ⟨(h.atomic ha).1, hb.outside.2, (h.atomic ha).2.2⟩ }
  rw [stopStep3_eq]
  exact cmdReturn_inv (hstop.of_bookkeeping rfl) _

/-! #### SEND -/

/-- A message is queued, and signalled where nothing is in flight (R212, R240). -/
theorem State.Inv.queueTx (h : s.Inv) {m : CanMessage} (hm : m.wf) (hl : s.txq.length < Config.txqCap) {n : Notif}
    (hn : s.cfg.atomicOps = true → s.txInflight = true ∨ n.txReady = true) :
    ({ s with txq := s.txq ++ [m], notif := n } : State).Inv := by
  obtain ⟨htx, hrx, heg, htxWf, hrxWf, hegLen⟩ := h.queues
  refine { h with queues := ⟨by simpa using hl, hrx, heg, fun x hx => ?_, hrxWf, hegLen⟩, atomic := fun ha => ?_ }
  · rcases List.mem_append.1 hx with hx | hx
    · exact htxWf x hx
    · rw [List.mem_singleton.1 hx]; exact hm
  · exact ⟨(h.atomic ha).1, (h.atomic ha).2.1, fun _ => hn ha⟩

theorem sendStep2_inv (h : s.Inv) (cmd : Bool) : (sendStep2 cmd s).Inv := by
  unfold sendStep2
  split
  · exact cmdReturn_inv h _
  · exact cmdReturn_inv h.signalTxReady _

theorem sendStep1_inv (h : s.Inv) {m : CanMessage} (hm : m.wf) {cmd : Bool} (hb : s.baseOk s.cmdctx)
    (ho : s.cmdctx = [] ∨ cmd = true) : (sendStep1 m cmd s).Inv := by
  rcases sendStep1_cases m cmd s with ⟨hl, _, e⟩ | ⟨hl, ha, e⟩ | ⟨_, e⟩ <;> rw [e]
  · rw [sendStep2_eq]
    refine cmdReturn_inv (h.queueTx hm hl fun _ => ?_) _
    cases s.txInflight <;> simp
  · exact (h.queueTx hm hl (n := s.notif) fun ho => by simp [ha] at ho).pushHandler (f := .send2 cmd) hb rfl rfl ho fun _ _ => ha
  · exact cmdReturn_inv (h.of_bookkeeping rfl) _

/-! #### Commands and DISPATCH -/

theorem connectBody_inv (h : s.Inv) (param : Byte) (hb : s.baseOk s.cmdctx) : (connectBody param s).Inv := by
  have hi := configureStep_inv h s.cfg.defaultArb s.cfg.defaultData
  rcases connectBody_cases param s with ⟨_, e⟩ | ⟨_, x, hx, e⟩ | ⟨_, x, hx, e⟩ <;> rw [e]
  · exact stopStep1_inv h hb (.inr rfl)
  · have hf := configureStep_frame s.cfg.defaultArb s.cfg.defaultData s
    rw [hx] at hi hf
    simp only at hi hf
    have hbx : x.baseOk x.cmdctx := by rw [hf]; exact hb
    exact hi.pushHandler (f := .connectStart) hbx rfl rfl (.inr rfl) nofun
  · rw [hx] at hi; exact cmdReturn_inv hi _

theorem connectStartStep_inv (h : s.Inv) (hout : s.outsideStop) : (connectStartStep s).Inv := cmdReturn_inv (startStep_inv h hout) _

theorem canSendBody_inv (h : s.Inv) (ident : BitVec 32) {data : List Byte} (hd : data.length ≤ 8) (hb : s.baseOk s.cmdctx) :
    (canSendBody ident data s).Inv := by
  rcases canSendBody_cases ident data s with ⟨_, e⟩ | ⟨ty, id, hcl, e⟩ <;> rw [e]
  · exact ignoreCommand_inv h _
  · exact sendStep1_inv h (canSendMessage_wf hcl hd) hb (.inr rfl)

theorem dispatchBody_inv (h : s.Inv) (n : Nat) (hb : s.baseOk s.cmdctx) : Answers State.Inv (dispatchBody n s) := by
  rcases dispatchBody_cases n s with ⟨_, e⟩ | ⟨p, cause, _, _, e⟩ | ⟨p, cmd, _, hd, e⟩ <;> rw [e]
  · trivial
  · exact ignoreCommand_inv h cause
  · cases cmd with
    | connect p => exact connectBody_inv h p hb
    | canSend ident data => exact canSendBody_inv h ident (decodeCommand_data hd) hb
    | unknown id rest => exact ignoreCommand_inv h _

/-! #### The parser -/

/-- The state in which SCAN calls its handler: payload copied, LOCK taken, SCAN's return on the stack (R153). -/
def State.accepted (s : State) (p : List Byte) : State :=
  { s with
    cmd := s.cmd.writeSeq 0 p, cmdLen := p.length, lock := s.lock.acquire .cmdctx
    cmdctx := .scanReturn (s.cfg.ovh + p.length) p.length :: s.cmdctx }

theorem accepted_base {p : List Byte} (hc : s.cmdctx = [] ∨ s.cmdctx = [.process]) (hl : s.lock = { owner := none, depth := 0 })
    (hu : s.cfg.ovh + p.length ≤ s.used) : (s.accepted p).baseOk (s.accepted p).cmdctx := by
  refine .inr ⟨scanTail_iff.2 ⟨p.length, hu, ?_⟩, by simp [State.accepted, hl, Lock.acquire]⟩
  rcases hc with hc | hc <;> simp [State.accepted, hc]

theorem accepted_inv (h : s.Inv) {p : List Byte} (hp : p.length ≤ s.cfg.cmdMax) (hc : s.cmdctx = [] ∨ s.cmdctx = [.process])
    (hl : s.lock = { owner := none, depth := 0 }) (hu : s.cfg.ovh + p.length ≤ s.used) : (s.accepted p).Inv := by
  have hb := accepted_base hc hl hu
  have hout : s.outsideStop := by rcases hc with hc | hc <;> simp [State.outsideStop, hc, CmdFrame.inStop]
  obtain ⟨hi, ha⟩ := (State.enablesOk_iff hout).1 h.enables
  obtain ⟨hring, hcmd, hin, hcell⟩ := h.memory
  exact { h with
    memory := by
      refine ⟨hring, Memory.writeSeq_wf 0 p hcmd, hin, fun x hx => ?_⟩
      rcases Memory.mem_writeSeq hx with hx | hx
      · rw [Nat.zero_add] at hx; exact lt_of_lt_of_le hx hp
      · exact hcell x hx
    payload := ⟨hp, p, Memory.readSeq_writeSeq s.cmd 0 p⟩
    enables := State.enablesOk_of_outside hb.outside.1 hi ha
    stack := State.stackOk_of_base hb
    atomic := fun ho => ⟨(h.atomic ho).1, hb.outside.2, (h.atomic ho).2.2⟩ }

/-- The handler is called where the payload fits CMD and the frame's bytes are unread (R153, R154). -/
theorem acceptFrame_inv (h : s.Inv) {p : List Byte} (hc : s.cmdctx = [] ∨ s.cmdctx = [.process])
    (hl : s.lock = { owner := none, depth := 0 }) (hu : s.cfg.ovh + p.length ≤ s.used) : Answers State.Inv (acceptFrame p s) := by
  rcases acceptFrame_cases p s with ⟨_, e⟩ | ⟨hp, e⟩ <;> rw [e]
  · trivial
  · exact dispatchBody_inv (accepted_inv h hp hc hl hu) p.length (accepted_base hc hl hu)

/-- A skip passes one unread byte; a stop passes none (R147 to R152). -/
theorem scanReject_inv (h : s.Inv) {bs : List Byte} {o : ScanOutcome} (hu : s.unread = some bs) (ho : scanBytes s.cfg bs = .error o)
    (hc : s.cmdctx = [] ∨ s.cmdctx = [.process]) : (scanReject o s).Inv := by
  rcases scanReject_cases o s with e | ⟨hs, c, e⟩ <;> rw [e]
  · exact h.of_bookkeeping rfl
  · obtain ⟨hrd, hwr, hseq⟩ := h.indices
    have h1 : 1 ≤ s.used := by
      rw [← State.unread_length hu]
      cases bs with
      | nil => cases ho; cases hs
      | cons b bs => simp
    exact { h with
      indices := ⟨(State.advanceRd_ringOk 1 ⟨hrd, hwr⟩).1, hwr, hseq⟩
      unread := ⟨_, State.advanceRd_unread 1 ⟨hrd, hwr⟩ hu h1⟩
      stack := by
        have hst := h.stack
        rcases hc with hc | hc <;> simpa [State.stackOk, hc, scanTail] using hst }

/-- With CMDCTX at IDLE, or in a PROCESS, LOCK is free (R28). -/
theorem State.Inv.lock_free (h : s.Inv) (hc : s.cmdctx = [] ∨ s.cmdctx = [.process]) : s.lock = { owner := none, depth := 0 } := by
  have hst := h.stack
  rcases hc with hc | hc <;> simpa [State.stackOk, hc, CmdFrame.isHandler, scanTail] using hst

/-- PROCESS stands at the bottom of the stack alone (R155). -/
theorem State.Inv.process_alone (h : s.Inv) {rest : List CmdFrame} (hc : s.cmdctx = .process :: rest) : rest = [] := by
  have hst := h.stack
  cases rest with
  | nil => rfl
  | cons f fs => simp [State.stackOk, hc, CmdFrame.isHandler, scanTail] at hst

theorem scanStep_inv (h : s.Inv) (hc : s.cmdctx = []) : Answers State.Inv (scanStep s) := by
  rcases scanStep_cases s with ⟨_, e⟩ | ⟨bs, o, hu, ho, e⟩ | ⟨bs, seq, p, hu, hp, e⟩ <;> rw [e]
  · trivial
  · exact scanReject_inv h hu ho (.inl hc)
  · exact acceptFrame_inv h (.inl hc) (h.lock_free (.inl hc)) (State.unread_length hu ▸ (scanBytes_length hp).1)

theorem execFrame_inv (h : s.Inv) (seq : Nat) (p : List Byte) : Answers State.Inv (execFrame seq p s) := by
  refine whenParserIdle_answers h fun hc => ?_
  split_ifs with hu
  · exact h
  · exact acceptFrame_inv h (.inl hc) (h.lock_free (.inl hc)) (by omega)

/-- A PROCESS between two SCANs, whether its frame stands on the stack or is about to (R155). -/
theorem State.Inv.inProcess (h : s.Inv) (hc : s.cmdctx = [] ∨ s.cmdctx = [.process]) (l : List CmdFrame) (hl : l = [] ∨ l = [.process]) :
    ({ s with cmdctx := l } : State).Inv := by
  have hfree := h.lock_free hc
  have hout : s.outsideStop := by rcases hc with hc | hc <;> simp [State.outsideStop, hc, CmdFrame.inStop]
  have hen := (State.enablesOk_iff hout).1 h.enables
  exact { h with
    enables := by rcases hl with rfl | rfl <;> exact hen
    stack := by rcases hl with rfl | rfl <;> simp [State.stackOk, hfree]
    atomic := fun ha => ⟨(h.atomic ha).1, by rcases hl with rfl | rfl <;> simp, (h.atomic ha).2.2⟩ }

/-- PROCESS's next SCAN, with the stack as PROCESS found or left it (R155). -/
theorem processStep_inv (h : s.Inv) (hc : s.cmdctx = [] ∨ s.cmdctx = [.process]) : Answers State.Inv (processStep [] s) := by
  rcases processStep_cases [] s with ⟨_, e⟩ | ⟨bs, o, hu, ho, e⟩ | ⟨bs, seq, p, hu, hp, e⟩ <;> rw [e]
  · trivial
  · have hs := scanReject_inv h hu ho hc
    have hcs : (scanReject o s).cmdctx = s.cmdctx := by rcases scanReject_cases o s with e | ⟨_, c, e⟩ <;> rw [e]
    exact hs.inProcess (by rwa [hcs]) _ (by split_ifs <;> simp)
  · exact acceptFrame_inv (h.inProcess hc [.process] (.inr rfl)) (.inr rfl) (h.lock_free hc)
      (State.unread_length hu ▸ (scanBytes_length hp).1)

/-- Every further step of the command context (R46). -/
theorem cmdResume_inv (h : s.Inv) : Answers State.Inv (cmdResume s) := by
  rcases cmdResume_cases s with e | ⟨_, ⟨rest, hc, _, e⟩ | ⟨len, plen, rest, _, e⟩ | ⟨rest, hc, e⟩ | ⟨cmd, rest, hc, e⟩ |
    ⟨cmd, rest, hc, e⟩ | ⟨cmd, rest, hc, e⟩⟩ <;> rw [e]
  · exact h
  · obtain rfl := h.process_alone hc
    exact processStep_inv h (.inr hc)
  · exact cmdReturn_inv h _
  · exact connectStartStep_inv (h.popHandler hc rfl rfl) (State.stackOk_below h.stack hc rfl).1.outside.1
  · exact sendStep2_inv (h.popHandler hc rfl rfl) cmd
  · exact stopStep2_inv h hc
  · exact stopStep3_inv h hc

/-! ### RECEIVE keeps the invariant -/

/-- A change of the ring and its indices that leaves no fewer bytes unread. -/
theorem State.Inv.of_ring (h : s.Inv) (ht : t = { s with ring := t.ring, wr := t.wr, rd := t.rd, raised := t.raised })
    (hw : t.ring.wf) (hb : ∀ x ∈ t.ring, x.1 < s.cfg.cap) (hr : t.rd < s.cfg.cap ∧ t.wr < s.cfg.cap)
    (hu : ∃ bs, t.unread = some bs) (hle : s.used ≤ t.used) : t.Inv := by
  obtain ⟨_, hcmd, _, hcell⟩ := h.memory
  have hcfg : t.cfg = s.cfg := by rw [ht]
  have hst : t.stackOk := State.stackOk_mono h.stack (by rw [ht]) (by rw [ht]) hcfg hle
  rw [ht] at hu hst ⊢
  exact { h with
    memory := ⟨hw, hcmd, hb, hcell⟩, indices := ⟨hr.1, hr.2, h.indices.2.2⟩, unread := hu, stack := hst }

theorem State.Inv.ringOk (h : s.Inv) : s.ringOk := ⟨h.indices.1, h.indices.2.1⟩

/-- RECEIVE appends to a ring that is not full (R141). -/
theorem appendRing_inv (h : s.Inv) (b : Byte) (hf : s.used ≠ s.cfg.cap - 1) : (s.appendRing b).Inv := by
  obtain ⟨u, hu⟩ := h.unread
  obtain ⟨hw, hb⟩ := appendRing_memory b h.memory.1 h.memory.2.2.1 h.ringOk.2
  exact h.of_ring rfl hw hb (State.appendRing_ringOk b h.ringOk) ⟨_, State.appendRing_unread b h.ringOk hu hf⟩
    (by rw [State.appendRing_used b h.ringOk hf]; omega)

/-- At a full ring OVERWRITE gives up the oldest byte before it appends: as many bytes stay unread (R142). -/
theorem overwriteByte_inv (h : s.Inv) (b : Byte) (hcap : 2 ≤ s.cfg.cap) : (overwriteByte b s).Inv := by
  by_cases hf : s.used = s.cfg.cap - 1
  · obtain ⟨u, hu⟩ := h.unread
    have e : overwriteByte b s = ((s.advanceRd 1).appendRing b).raise (.backpressure .ringOverwrite) :=
      if_pos ((State.full_iff h.ringOk).2 hf)
    have hr := State.advanceRd_ringOk 1 h.ringOk
    have h1 : 1 ≤ s.used := by omega
    have hused := State.advanceRd_used 1 h.ringOk h1
    have hf' : (s.advanceRd 1).used ≠ (s.advanceRd 1).cfg.cap - 1 := by rw [hused, State.advanceRd_cfg]; omega
    obtain ⟨hw, hb⟩ := appendRing_memory (s := s.advanceRd 1) b h.memory.1 h.memory.2.2.1 h.ringOk.2
    rw [e]
    refine h.of_ring rfl hw hb (State.appendRing_ringOk b hr)
      ⟨_, State.appendRing_unread b hr (State.advanceRd_unread 1 h.ringOk hu h1) hf'⟩ ?_
    change s.used ≤ ((s.advanceRd 1).appendRing b).used
    rw [State.appendRing_used b hr hf', hused]
    omega
  · rw [show overwriteByte b s = s.appendRing b from if_neg fun e => hf ((State.full_iff h.ringOk).1 e)]
    exact appendRing_inv h b hf

theorem receiveReject_inv (h : s.Inv) (bs : List Byte) (i : Nat) : (receiveReject bs i s).Inv := by
  induction bs generalizing i s with
  | nil => exact h.of_bookkeeping rfl
  | cons b bs ih =>
    unfold receiveReject
    split_ifs with hf
    · exact h.of_bookkeeping rfl
    · exact ih (appendRing_inv h b fun e => hf ((State.full_iff h.ringOk).2 e)) (i + 1)

theorem receiveOverwrite_inv (h : s.Inv) (bs : List Byte) : (receiveOverwrite bs s).Inv := by
  induction bs generalizing s with
  | nil => exact h.of_bookkeeping rfl
  | cons b bs ih => exact ih (overwriteByte_inv h b (by have := h.sizes.1; unfold Config.ovh at this; omega))

theorem receiveBody_inv (h : s.Inv) (bs : List Byte) : (receiveBody bs s).Inv := by
  unfold receiveBody
  split
  · exact receiveReject_inv h bs 0
  · exact receiveOverwrite_inv h bs

theorem execReceive_inv (h : s.Inv) (bs : List Byte) : Answers State.Inv (execReceive bs s) := by
  rcases execReceive_cases bs s with e | ⟨_, e⟩ | ⟨_, e⟩ <;> rw [e]
  · exact h
  · trivial
  · exact receiveBody_inv h bs

theorem execIngress_inv (h : s.Inv) (bs : List Byte) : Answers State.Inv (execIngress bs s) := by
  refine whenParserIdle_answers h fun hc => ?_
  have e : (receiveBody (ingressBytes s.cfg bs) s).cmdctx = [] := by rw [receiveBody_frame]; exact hc
  simpa [State.pushFrame, e] using (receiveBody_inv h (ingressBytes s.cfg bs)).inProcess (.inl e) [.process] (.inr rfl)

/-! ### Every step keeps the invariant -/

theorem execCanSend_inv (h : s.Inv) (ident : BitVec 32) (data : List Byte) : Answers State.Inv (execCanSend ident data s) := by
  refine whenCmdIdle_answers h fun hr => ?_
  split_ifs with hd
  · exact canSendBody_inv h ident hd (h.base_idle hr.2)
  · exact ignoreCommand_inv h _

theorem execSend_inv (h : s.Inv) (m : CanMessage) : Answers State.Inv (execSend m s) := by
  refine whenCmdIdle_answers h fun hr => ?_
  split_ifs with hm
  · exact sendStep1_inv h hm (h.base_idle hr.2) (.inl hr.2)
  · trivial

theorem execInvalid_inv (h : s.Inv) (cause : InvalidCause) : Answers State.Inv (execInvalid cause s) :=
  whenCmdIdle_answers h fun _ => ignoreCommand_inv h cause

theorem outsideStop_idle (hc : s.cmdctx = []) : s.outsideStop := by simp [State.outsideStop, hc]

/-- Every operation keeps the invariant. -/
theorem exec_inv (h : s.Inv) (i : Instr) : Answers State.Inv (exec i s) := by
  cases i with
  | frame seq p => exact execFrame_inv h seq p
  | process => exact whenParserIdle_answers h fun hc => processStep_inv h (.inl hc)
  | scan => exact whenParserIdle_answers h fun hc => scanStep_inv h hc
  | dispatch n => exact whenCmdIdle_answers h fun hr => dispatchBody_inv h n (h.base_idle hr.2)
  | connect p => exact whenCmdIdle_answers h fun hr => connectBody_inv h p (h.base_idle hr.2)
  | canSend ident data => exact execCanSend_inv h ident data
  | unknown id rest => exact execInvalid_inv h _
  | reportClassicStd | reportClassicExt | reportFdStd | reportFdExt => exact emitPayload_inv h _
  | reportFirstClassicStd | reportFirstClassicExt | reportFirstFdStd | reportFirstFdExt | reportCont => exact emitFragment_inv h _
  | keepAlive => exact execKeepAlive_inv h
  | init ok => exact execInit_inv h ok
  | ingress bs => exact execIngress_inv h bs
  | receive bs => exact execReceive_inv h bs
  | formatFrame call => exact execFormatFrame_inv h call
  | configure arb data => exact whenCmdIdle_answers h fun _ => cmdReturn_inv (configureStep_inv h arb data) _
  | start => exact whenCmdIdle_answers h fun hr => cmdReturn_inv (startStep_inv h (outsideStop_idle hr.2)) _
  | stop => exact whenCmdIdle_answers h fun hr => stopStep1_inv h (h.base_idle hr.2) (.inl hr.2)
  | send m => exact execSend_inv h m
  | rxIsr m => exact execRxIsr_inv h m
  | txeIsr => exact execTxeIsr_inv h
  | taskWait => exact execTaskWait_inv h
  | taskTx => exact execTaskTx_inv h
  | taskRx => exact execTaskRx_inv h
  | report m => exact execReport_inv h m
  | emit pkt a => exact execEmit_inv h pkt a
  | transportReady => exact execTransportReady_inv h

theorem runEncoded_inv (h : s.Inv) (e : Encoded) : Answers State.Inv (runEncoded e s) := by
  refine answers_iff.2 fun t ht => ?_
  rcases runEncoded_cases e s with ⟨i, he⟩ | ⟨ok, cause, he⟩ | he | ⟨err, he⟩ <;> rw [he] at ht
  · exact (exec_inv h i).of_eq (runCalled_next ht)
  · exact (execInvalid_inv h cause).of_eq (whenCaller_next ht)
  · cases ht; exact h
  · cases ht

theorem runChoice_inv (h : s.Inv) (ch : Choice) : Answers State.Inv (runChoice ch s) := by
  cases ch with
  | call e => exact runEncoded_inv h e
  | resume a =>
    simp only [runChoice, resume]
    split
    · exact cmdResume_inv h
    · exact bridgeResume_inv h
    · exact h

end

/-- Settles O57: the reset state is what INIT creates. -/
theorem resetSatisfiesInvariant : Obligations.ResetSatisfiesInvariant := by
  unfold Obligations.ResetSatisfiesInvariant
  intro c hc
  exact createAll_inv (s := State.resetWith c) hc (.inl rfl)

/-- Settles O58: the inputs are not the invariant's, and whatever is chosen keeps it. -/
theorem stepKeepsInvariant : Obligations.StepKeepsInvariant := by
  unfold Obligations.StepKeepsInvariant
  intro s t h ht
  rw [step, stepOnce, if_pos h.sizes] at ht
  exact (runChoice_inv (nextStimulus_inv h) _).of_eq ht

/-! ### Outside a running block -/

section
variable {s : State} {k : Res}

/-- The block is not running before INIT and after a failed one (R21, R336). -/
theorem running_false_iff : s.running = false ↔ s.inited = false ∨ s.bst = .halted := by
  cases hi : s.inited <;> simp [State.running, hi]

theorem whenCmdIdle_stopped (hr : s.running = false) : whenCmdIdle s k = .next s := by simp [whenCmdIdle, hr, waits]

theorem whenParserIdle_stopped (hr : s.running = false) : whenParserIdle s k = .next s := by simp [whenParserIdle, hr, waits]

theorem whenBridgeIdle_stopped (hr : s.running = false) : whenBridgeIdle s k = .next s := by simp [whenBridgeIdle, hr, waits]

theorem takeInterrupt_stopped (hr : s.running = false) : takeInterrupt s k = .next s := by
  simp [takeInterrupt, State.interruptsEnabled, hr, waits]

theorem emitFragment_stopped (hr : s.running = false) (p : List Byte) : emitFragment p s = .next s := by
  unfold emitFragment
  split <;> exact whenBridgeIdle_stopped hr

theorem execTaskWait_stopped (hr : s.running = false) : execTaskWait s = .next s := by simp [execTaskWait, hr, waits]

theorem execTaskTx_stopped (hr : s.running = false) : execTaskTx s = .next s := by simp [execTaskTx, hr, waits]

theorem execTaskRx_stopped (hr : s.running = false) : execTaskRx s = .next s := by simp [execTaskRx, hr, waits]

/-- Where the block does not run, every operation but INIT waits. -/
theorem exec_stopped (hr : s.running = false) (i : Instr) (hi : ∀ ok, i ≠ .init ok) : exec i s = .next s := by
  cases i with
  | init ok => exact absurd rfl (hi ok)
  | frame | process | scan | ingress => exact whenParserIdle_stopped hr
  | connect | canSend | unknown | dispatch | configure | start | stop | send => exact whenCmdIdle_stopped hr
  | reportClassicStd | reportClassicExt | reportFdStd | reportFdExt | report | emit => exact whenBridgeIdle_stopped hr
  | reportFirstClassicStd | reportFirstClassicExt | reportFirstFdStd | reportFirstFdExt | reportCont =>
    exact emitFragment_stopped hr _
  | rxIsr | txeIsr => exact takeInterrupt_stopped hr
  | taskWait => exact execTaskWait_stopped hr
  | taskTx => exact execTaskTx_stopped hr
  | taskRx => exact execTaskRx_stopped hr
  | keepAlive => simp [exec, execKeepAlive, hr, waits]
  | receive bs => simp [exec, execReceive, hr, waits]
  | formatFrame call => simp [exec, execFormatFrame, hr, waits]
  | transportReady => simp [exec, execTransportReady, hr, waits]

/-- Once INIT has run a second INIT waits too (R334). -/
theorem exec_halted (hi : s.inited = true) (hb : s.bst = .halted) (i : Instr) : exec i s = .next s := by
  by_cases h : ∃ ok, i = .init ok
  · obtain ⟨ok, rfl⟩ := h
    simp [exec, execInit, hi, waits]
  · exact exec_stopped (running_false_iff.2 (.inr hb)) i fun ok e => h ⟨ok, e⟩

/-- After a failed INIT whatever is chosen changes nothing (R336). -/
theorem runChoice_halted (hi : s.inited = true) (hb : s.bst = .halted) (ch : Choice) : Answers (· = s) (runChoice ch s) := by
  have hr : s.running = false := running_false_iff.2 (.inr hb)
  cases ch with
  | call e =>
    refine answers_iff.2 fun t ht => ?_
    rcases runEncoded_cases e s with ⟨i, he⟩ | ⟨ok, cause, he⟩ | he | ⟨err, he⟩ <;> rw [runChoice, he] at ht
    · have e := runCalled_next ht
      rw [exec_halted hi hb] at e; cases e; rfl
    · have e := whenCaller_next ht
      rw [execInvalid, whenCmdIdle_stopped hr] at e; cases e; rfl
    · cases ht; rfl
    · cases ht
  | resume a =>
    have hcmd : cmdResume s = .next s := by simp [cmdResume, hr, waits]
    have hbridge : bridgeResume s = .next s := by
      rcases bridgeResume_cases s with e | e | e <;> rw [e]
      · exact execTaskWait_stopped hr
      · exact execTaskTx_stopped hr
      · exact execTaskRx_stopped hr
    simp only [runChoice, resume]
    split
    · rw [hcmd]; rfl
    · rw [hbridge]; rfl
    · rfl

end

/-- Settles O11: a block that does not run lets every operation wait, and a HALTED one INIT too. -/
theorem nothingEnabledOutsideRunning : Obligations.NothingEnabledOutsideRunning := by
  unfold Obligations.NothingEnabledOutsideRunning
  refine ⟨fun s i hi hn => exec_stopped (running_false_iff.2 (.inl hi)) i hn, fun s i hi hb => exec_halted hi hb i, ?_⟩
  intro s t hi hb ht
  rw [step, stepOnce] at ht
  split at ht
  · have hf := nextStimulus_frame s
    have e := (runChoice_halted (s := (nextStimulus s).2) (by rw [hf]; exact hi) (by rw [hf]; exact hb) _).of_eq ht
    rw [e, hf]
    exact ⟨hb, rfl, rfl⟩
  · cases ht

/-! ### The command context's frame -/

section
variable {s t : State}

theorem CmdKeeps.refl (s : State) : CmdKeeps s s := ⟨rfl, .inl rfl⟩

/-- A called command or bridge operation keeps what a handler keeps, and RD and LOCK too, since CMDCTX was at IDLE. -/
theorem whenCmdIdle_keeps {k : Res} (hk : Answers (HandlerKeeps s) k) :
    Answers (fun t => HandlerKeeps s t ∧ t.rd = s.rd ∧ t.lock = s.lock) (whenCmdIdle s k) :=
  whenCmdIdle_answers ⟨HandlerKeeps.refl s, rfl, rfl⟩ fun hr => answers_iff.2 fun _ e => ⟨hk.of_eq e, (hk.of_eq e).idle hr.2⟩

/-- The operations the command context begins, but for the three that scan. -/
theorem exec_command_keeps {i : Instr} (hi : commandContext i = true) (hscan : i ≠ .scan) (hproc : i ≠ .process)
    (hframe : ∀ seq p, i ≠ .frame seq p) : Answers (fun t => HandlerKeeps s t ∧ t.rd = s.rd ∧ t.lock = s.lock) (exec i s) := by
  cases i with
  | frame seq p => exact absurd rfl (hframe seq p)
  | scan => exact absurd rfl hscan
  | process => exact absurd rfl hproc
  | connect p => exact whenCmdIdle_keeps (connectBody_keeps p s)
  | canSend ident data =>
    refine whenCmdIdle_keeps ?_
    split_ifs
    · exact canSendBody_keeps ident data s
    · exact ignoreCommand_keeps _ s
  | unknown id rest => exact whenCmdIdle_keeps (ignoreCommand_keeps _ s)
  | dispatch n => exact whenCmdIdle_keeps (answers_iff.2 fun _ => dispatchBody_keeps)
  | configure arb data =>
    exact whenCmdIdle_keeps (HandlerKeeps.return _ (configureStep_keeps arb data s).1 (configureStep_keeps arb data s).2)
  | start => exact whenCmdIdle_keeps (HandlerKeeps.return _ (startStep_keeps s).1 (startStep_keeps s).2)
  | stop => exact whenCmdIdle_keeps (stopStep1_keeps false s)
  | send m =>
    refine whenCmdIdle_keeps ?_
    split_ifs
    · exact sendStep1_keeps m false s
    · trivial
  | _ => simp [commandContext] at hi

theorem exec_scan_keeps : Answers (CmdKeeps s) (exec .scan s) :=
  whenParserIdle_answers (CmdKeeps.refl s) fun _ => answers_iff.2 fun _ => scanStep_keeps

theorem exec_process_keeps : Answers (CmdKeeps s) (exec .process s) :=
  whenParserIdle_answers (CmdKeeps.refl s) fun _ => answers_iff.2 fun _ => processStep_keeps

theorem exec_frame_keeps (seq : Nat) (p : List Byte) : Answers (CmdKeeps s) (exec (.frame seq p) s) := by
  refine whenParserIdle_answers (CmdKeeps.refl s) fun _ => ?_
  split_ifs
  · exact CmdKeeps.refl s
  · exact answers_iff.2 fun _ h => (acceptFrame_keeps h).1

/-- Every operation the command context begins. -/
theorem exec_cmdKeeps {i : Instr} (hi : commandContext i = true) : Answers (CmdKeeps s) (exec i s) := by
  by_cases hscan : i = .scan
  · rw [hscan]; exact exec_scan_keeps
  by_cases hproc : i = .process
  · rw [hproc]; exact exec_process_keeps
  by_cases hframe : ∃ seq p, i = .frame seq p
  · obtain ⟨seq, p, rfl⟩ := hframe; exact exec_frame_keeps seq p
  have hk := exec_command_keeps (s := s) hi hscan hproc fun seq p e => hframe ⟨seq, p, e⟩
  exact answers_iff.2 fun t e => (hk.of_eq e).1.keeps

end

/-- Settles O34: the frame of every begun operation and further step; the commands' own keeps CMD, RD and LOCK. -/
theorem commandContextFrame : Obligations.CommandContextFrame := by
  unfold Obligations.CommandContextFrame
  intro s t i h
  have hk : CmdKeeps s t := by
    rcases h with ⟨h, hi⟩ | h
    · exact (exec_cmdKeeps hi).of_eq h
    · exact cmdResume_keeps h
  refine ⟨hk.frame, hk.txq, fun h hi hscan hproc hframe => ?_⟩
  obtain ⟨hh, hrd, hlock⟩ := (exec_command_keeps hi hscan hproc hframe).of_eq h
  exact ⟨hh.cmd.1, hh.cmd.2, hrd, hlock⟩

/-! ### The interrupt context's frame -/

/-- What interrupt context may write: RXQ at its end, EGQ at its head, the notification bits, events and outputs (R43, R297). -/
structure InterruptKeeps (s t : State) : Prop where
  frame : t = { s with rxq := t.rxq, notif := t.notif, egq := t.egq, outputs := t.outputs, raised := t.raised }
  rxq : t.rxq = s.rxq ∨ ∃ m, t.rxq = s.rxq ++ [m]
  egq : t.egq = s.egq ∨ ∃ p, s.egq = p :: t.egq

section
variable {s t : State}

theorem InterruptKeeps.refl (s : State) : InterruptKeeps s s := ⟨rfl, .inl rfl, .inl rfl⟩

theorem rxHandler_keeps (m : CanMessage) (s : State) : InterruptKeeps s (rxHandler m s) := by
  unfold rxHandler
  rcases pushBounded_cases Config.rxqCap s.rxq m with ⟨_, e⟩ | ⟨_, e⟩ <;> rw [e]
  · exact ⟨rfl, .inr ⟨m, rfl⟩, .inl rfl⟩
  · exact ⟨rfl, .inl rfl, .inl rfl⟩

theorem writeKeepAlive_keeps (s : State) : InterruptKeeps s (writeKeepAlive s) := by
  unfold writeKeepAlive
  split <;> exact ⟨rfl, .inl rfl, .inl rfl⟩

/-- Every operation of interrupt context (R310). -/
theorem exec_interruptKeeps {i : Instr} (hi : instrContext i = .interrupt) : Answers (InterruptKeeps s) (exec i s) := by
  cases i with
  | rxIsr m =>
    refine takeInterrupt_answers (InterruptKeeps.refl s) ?_
    split_ifs
    · exact rxHandler_keeps m s
    · trivial
  | txeIsr => exact takeInterrupt_answers (InterruptKeeps.refl s) ⟨rfl, .inl rfl, .inl rfl⟩
  | transportReady =>
    simp only [exec, execTransportReady]
    rcases popOldest_cases s.egq with ⟨_, e⟩ | ⟨pkt, q, hq, e⟩ <;> rw [e] <;> split_ifs
    · exact writeKeepAlive_keeps s
    · exact InterruptKeeps.refl s
    · exact ⟨rfl, .inl rfl, .inr ⟨pkt, hq⟩⟩
    · exact InterruptKeeps.refl s
  | keepAlive =>
    simp only [exec, execKeepAlive]
    split_ifs
    · exact writeKeepAlive_keeps s
    · exact InterruptKeeps.refl s
  | _ => simp [instrContext] at hi

end

/-- Settles O41: the frame of the two CAN interrupts' handlers and of the transport's ready event. -/
theorem interruptContextFrame : Obligations.InterruptContextFrame := by
  unfold Obligations.InterruptContextFrame
  intro s t i hi h
  exact ((exec_interruptKeeps hi).of_eq h).frame

/-! ### The egress half's frame -/

/-- What formatting and EMIT may write (R160, R265): SEQ, the buffer, BRIDGE's marker, the result, events and outputs, and EGQ at its end, with one packet a step, or both of a report that is one step (R46). -/
structure EgressKeeps (s t : State) : Prop where
  frame : t = { s with
    seq := t.seq, buf := t.buf, bridge := t.bridge, egq := t.egq, ret := t.ret, raised := t.raised, outputs := t.outputs }
  egq : ∃ ps, t.egq = s.egq ++ ps ∧ ps.length ≤ if s.cfg.atomicOps then 2 else 1

section
variable {s t : State}

/-- A step that leaves EGQ alone. -/
theorem EgressKeeps.of_frame (h : t = { s with
    seq := t.seq, buf := t.buf, bridge := t.bridge, ret := t.ret, raised := t.raised, outputs := t.outputs }) : EgressKeeps s t := by
  rw [h]
  exact ⟨rfl, [], by simp, by simp⟩

theorem EgressKeeps.refl (s : State) : EgressKeeps s s := .of_frame rfl

theorem emitPacket_keeps (pkt : List Byte) (a : Bool) (s : State) (b : BridgePc) :
    EgressKeeps s (emitPacket pkt a s) ∧ EgressKeeps s { emitPacket pkt a s with bridge := b } := by
  rcases emitPacket_cases pkt a s with ⟨_, e⟩ | ⟨_, _, e⟩ | ⟨_, _, e⟩ <;> rw [e]
  · exact ⟨.of_frame rfl, .of_frame rfl⟩
  · have hone : [pkt].length ≤ if s.cfg.atomicOps then 2 else 1 := by split_ifs <;> simp
    exact ⟨⟨rfl, [pkt], rfl, hone⟩, ⟨rfl, [pkt], rfl, hone⟩⟩
  · exact ⟨.of_frame rfl, .of_frame rfl⟩

theorem formatNext_keeps (p : List Byte) (left : List (List Byte)) (s : State) : Answers (EgressKeeps s) (formatNext p left s) := by
  refine answers_iff.2 fun t h => ?_
  rw [(formatNext_next h).2]
  exact .of_frame rfl

/-- A REPORT has at most the two payloads of R260. -/
theorem beginReport_keeps {ps : List (List Byte)} (hl : ps.length ≤ 2) (s : State) : Answers (EgressKeeps s) (beginReport ps s) := by
  unfold beginReport
  split_ifs with ha
  · rcases reportAtOnce_cases s.env.transportAvailable ps s with ⟨t, e, ht, _, es, hes, hlen, _⟩ | ⟨e, _⟩ <;> rw [e]
    · exact ⟨by rw [ht], es, hes, by rw [if_pos ha]; omega⟩
    · trivial
  · cases ps with
    | nil => exact EgressKeeps.refl s
    | cons p ps => exact formatNext_keeps p ps s

theorem reportPayloads_length {c : Config} {m : CanMessage} {ps : List (List Byte)} (h : reportPayloads c m = .ok ps) : ps.length ≤ 2 := by
  rcases reportPayloads_cases c m with ⟨_, e⟩ | ⟨_, _, e⟩ | ⟨_, _, _, e⟩ | ⟨_, _, _, e⟩ <;> rw [e] at h <;> cases h <;> simp

theorem execReport_keeps (m : CanMessage) (s : State) : Answers (EgressKeeps s) (execReport m s) := by
  refine whenBridgeIdle_answers (EgressKeeps.refl s) fun _ => ?_
  split
  · exact beginReport_keeps (reportPayloads_length ‹_›) s
  · trivial

theorem emitPayload_keeps (p : List Byte) (s : State) : Answers (EgressKeeps s) (emitPayload p s) :=
  whenBridgeIdle_answers (EgressKeeps.refl s) fun _ => beginReport_keeps (by simp) s

theorem emitFragment_keeps (p : List Byte) (s : State) : Answers (EgressKeeps s) (emitFragment p s) := by
  unfold emitFragment
  split
  · exact emitPayload_keeps p s
  · exact whenBridgeIdle_answers (EgressKeeps.refl s) fun _ => trivial

theorem execFormatFrame_keeps (call : FormatCall) (s : State) : Answers (EgressKeeps s) (execFormatFrame call s) := by
  unfold execFormatFrame
  split_ifs
  · exact EgressKeeps.refl s
  · exact EgressKeeps.of_frame rfl
  · trivial

theorem execEmit_keeps (pkt : List Byte) (a : Bool) (s : State) : Answers (EgressKeeps s) (execEmit pkt a s) := by
  refine whenBridgeIdle_answers (EgressKeeps.refl s) fun _ => ?_
  split_ifs
  · exact (emitPacket_keeps pkt a s .wait).1
  · trivial

theorem reportStep_keeps (s : State) : Answers (EgressKeeps s) (reportStep s) := by
  rcases reportStep_cases s with ⟨p, ps, _, e⟩ | ⟨pkt, left, _, e⟩ | ⟨_, e⟩ | e <;> rw [e]
  · exact formatNext_keeps p ps s
  · exact (emitPacket_keeps pkt _ s _).2
  · exact EgressKeeps.of_frame rfl
  · exact EgressKeeps.refl s

/-- TASK_RX takes the oldest received message, if any, and then does what a REPORT does (R236). -/
theorem taskRxStep_keeps (s : State) : Answers (EgressKeeps { s with rxq := s.rxq.tail }) (taskRxStep s) := by
  unfold taskRxStep
  rcases popOldest_cases s.rxq with ⟨hq, e⟩ | ⟨m, q, hq, e⟩ <;> rw [e, hq] <;> dsimp only
  · exact EgressKeeps.of_frame (by simp)
  · split
    · split_ifs
      · exact beginReport_keeps (reportPayloads_length ‹_›) _
      · exact EgressKeeps.of_frame rfl
    · trivial

end

/-! ### TX_INFLIGHT and the queues -/

/-- A queue stays, gains one element at its end, or loses its oldest (R36). -/
def FifoStep {α : Type} (q q' : List α) : Prop := q' = q ∨ (∃ m, q' = q ++ [m]) ∨ ∃ m, q = m :: q'

theorem fifoStep_tail {α : Type} (q : List α) : FifoStep q q.tail := by
  cases q with
  | nil => exact .inl rfl
  | cons m q => exact .inr (.inr ⟨m, rfl⟩)

/-- What an operation may do to the three queues (R34, R35, R47). -/
structure FifoKeeps (s t : State) : Prop where
  txq : FifoStep s.txq t.txq
  rxq : FifoStep s.rxq t.rxq
  egq : (∃ ps, t.egq = s.egq ++ ps ∧ ps.length ≤ if s.cfg.atomicOps then 2 else 1) ∨ ∃ p, s.egq = p :: t.egq

section
variable {s t : State}

/-- The queues of a step that leaves EGQ alone. -/
theorem FifoKeeps.of_egq (htx : FifoStep s.txq t.txq) (hrx : FifoStep s.rxq t.rxq) (he : t.egq = s.egq) : FifoKeeps s t :=
  ⟨htx, hrx, .inl ⟨[], by simp [he], by simp⟩⟩

theorem FifoKeeps.refl (s : State) : FifoKeeps s s := .of_egq (.inl rfl) (.inl rfl) rfl

theorem CmdKeeps.fifo (h : CmdKeeps s t) : FifoKeeps s t ∧ t.txInflight = s.txInflight := by
  have htx : FifoStep s.txq t.txq := h.txq.imp_right .inl
  refine ⟨.of_egq htx (.inl ?_) ?_, ?_⟩ <;> rw [h.frame]

theorem InterruptKeeps.fifo (h : InterruptKeeps s t) : FifoKeeps s t ∧ t.txInflight = s.txInflight := by
  refine ⟨⟨.inl (by rw [h.frame]), h.rxq.imp_right .inl, ?_⟩, by rw [h.frame]⟩
  exact h.egq.imp_left fun e => ⟨[], by simp [e], by simp⟩

/-- Formatting and EMIT after what a task has taken from the other two queues. -/
theorem EgressKeeps.fifo_of {u : State} (h : EgressKeeps u t) (htx : FifoStep s.txq u.txq) (hrx : FifoStep s.rxq u.rxq)
    (he : u.egq = s.egq) (hc : u.cfg = s.cfg) : FifoKeeps s t ∧ t.txInflight = u.txInflight := by
  refine ⟨⟨?_, ?_, .inl (by rw [← he, ← hc]; exact h.egq)⟩, by rw [h.frame]⟩ <;> rw [h.frame] <;> assumption

theorem EgressKeeps.fifo (h : EgressKeeps s t) : FifoKeeps s t ∧ t.txInflight = s.txInflight :=
  h.fifo_of (.inl rfl) (.inl rfl) rfl rfl

theorem receiveBody_fifo (bs : List Byte) (s : State) : FifoKeeps s (receiveBody bs s) ∧ (receiveBody bs s).txInflight = s.txInflight := by
  rw [receiveBody_frame]
  exact ⟨.of_egq (.inl rfl) (.inl rfl) rfl, rfl⟩

/-- TASK_RX takes the oldest received message (R236). -/
theorem taskRxStep_fifo (s : State) : Answers (fun t => FifoKeeps s t ∧ t.txInflight = s.txInflight) (taskRxStep s) :=
  answers_iff.2 fun _ e => ((taskRxStep_keeps s).of_eq e).fifo_of (.inl rfl) (fifoStep_tail _) rfl rfl

theorem execTaskRx_fifo (s : State) : Answers (fun t => FifoKeeps s t ∧ t.txInflight = s.txInflight) (execTaskRx s) := by
  rcases execTaskRx_cases s with e | ⟨_, ⟨_, _, e⟩ | e⟩ <;> rw [e]
  · exact (EgressKeeps.refl s).fifo
  · exact taskRxStep_fifo s
  · exact answers_iff.2 fun _ e => ((reportStep_keeps s).of_eq e).fifo

theorem popOldest_rest {α : Type} (q : List α) : (popOldest q).2 = q.tail := by cases q <;> rfl

theorem taskTxStep2_queues (pending : Notif) (e : Option CanMessage) (s : State) :
    (taskTxStep2 pending e s).txq = s.txq ∧ (taskTxStep2 pending e s).rxq = s.rxq ∧ (taskTxStep2 pending e s).egq = s.egq := by
  cases e <;> exact ⟨rfl, rfl, rfl⟩

theorem taskTxStep1_queues (pending : Notif) (s : State) :
    (taskTxStep1 pending s).txq = s.txq.tail ∧ (taskTxStep1 pending s).rxq = s.rxq ∧ (taskTxStep1 pending s).egq = s.egq := by
  simp only [taskTxStep1, popOldest_rest]
  split_ifs
  · exact taskTxStep2_queues _ _ _
  · exact ⟨rfl, rfl, rfl⟩

/-- TASK_TX takes the oldest queued message (R231). -/
theorem execTaskTx_fifo (s : State) : Answers (FifoKeeps s) (execTaskTx s) := by
  unfold execTaskTx
  split_ifs
  · split
    · rename_i pending _
      obtain ⟨htx, hrx, he⟩ := taskTxStep1_queues pending s
      exact .of_egq (by rw [htx]; exact fifoStep_tail _) (.inl hrx) he
    · rename_i pending e _
      obtain ⟨htx, hrx, he⟩ := taskTxStep2_queues pending e s
      exact .of_egq (.inl htx) (.inl hrx) he
    all_goals exact FifoKeeps.refl s
  · exact FifoKeeps.refl s

/-- The bridge task's turn takes at most the oldest message of TXQ and that of RXQ, and emits one report (R46). -/
theorem bridgeTurn_fifo (s : State) : Answers (FifoKeeps s) (bridgeTurn s) := by
  have hserved : ∀ u : State, FifoStep s.txq u.txq → u.rxq = s.rxq → u.egq = s.egq → u.cfg = s.cfg →
      Answers (FifoKeeps s) (if s.notif.rxAvail then taskRxStep u else .next u) := by
    intro u htx hrx he hc
    split_ifs
    · refine answers_iff.2 fun t e => (((taskRxStep_keeps u).of_eq e).fifo_of htx ?_ he hc).1
      change FifoStep s.rxq u.rxq.tail
      rw [hrx]; exact fifoStep_tail _
    · exact .of_egq htx (.inl hrx) he
  unfold bridgeTurn
  dsimp only
  by_cases ht : s.notif.txReady = true
  · obtain ⟨htx, hrx, he⟩ := taskTxStep1_queues s.notif (taskWaitStep s)
    simp only [if_pos ht]
    exact hserved _ (by rw [htx]; exact fifoStep_tail _) hrx he (taskTxStep1_cfg _ _)
  · simp only [if_neg ht]
    exact hserved _ (.inl rfl) rfl rfl rfl

/-- TASK_WAIT takes the bits, and with ATOMIC_OPS = on the turn (R46, R228). -/
theorem execTaskWait_fifo (s : State) :
    Answers (fun t => FifoKeeps s t ∧ (t.txInflight = s.txInflight ∨ s.cfg.atomicOps = true)) (execTaskWait s) := by
  unfold execTaskWait
  split_ifs with _ ha
  · exact answers_iff.2 fun t e => ⟨(bridgeTurn_fifo s).of_eq e, .inr ha⟩
  · exact ⟨.of_egq (.inl rfl) (.inl rfl) rfl, .inl rfl⟩
  · exact ⟨FifoKeeps.refl s, .inl rfl⟩

/-- Every operation but TASK_WAIT, TASK_TX and INIT keeps TX_INFLIGHT and steps the queues. -/
theorem exec_fifo_inflight (i : Instr) (s : State) :
    Answers (fun t => FifoKeeps s t ∧ t.txInflight = s.txInflight) (exec i s) ∨ i = .taskWait ∨ i = .taskTx ∨ ∃ ok, i = .init ok := by
  have hcmd (hi : commandContext i = true) : Answers (fun t => FifoKeeps s t ∧ t.txInflight = s.txInflight) (exec i s) :=
    answers_iff.2 fun _ e => ((exec_cmdKeeps hi).of_eq e).fifo
  have hirq (hi : instrContext i = .interrupt) : Answers (fun t => FifoKeeps s t ∧ t.txInflight = s.txInflight) (exec i s) :=
    answers_iff.2 fun _ e => ((exec_interruptKeeps hi).of_eq e).fifo
  have hegress {k : Res} (hk : Answers (EgressKeeps s) k) : Answers (fun t => FifoKeeps s t ∧ t.txInflight = s.txInflight) k :=
    answers_iff.2 fun _ e => (hk.of_eq e).fifo
  cases i with
  | frame | connect | canSend | unknown | process | scan | dispatch | configure | start | stop | send => exact .inl (hcmd rfl)
  | rxIsr | txeIsr | transportReady | keepAlive => exact .inl (hirq rfl)
  | reportClassicStd | reportClassicExt | reportFdStd | reportFdExt => exact .inl (hegress (emitPayload_keeps _ s))
  | reportFirstClassicStd | reportFirstClassicExt | reportFirstFdStd | reportFirstFdExt | reportCont =>
    exact .inl (hegress (emitFragment_keeps _ s))
  | report m => exact .inl (hegress (execReport_keeps m s))
  | emit pkt a => exact .inl (hegress (execEmit_keeps pkt a s))
  | formatFrame call => exact .inl (hegress (execFormatFrame_keeps call s))
  | receive bs =>
    left
    rcases execReceive_cases bs s with e | ⟨_, e⟩ | ⟨_, e⟩ <;> rw [exec, e]
    · exact ⟨FifoKeeps.refl s, rfl⟩
    · trivial
    · exact receiveBody_fifo bs s
  | ingress bs =>
    refine .inl (whenParserIdle_answers ⟨FifoKeeps.refl s, rfl⟩ fun _ => ?_)
    obtain ⟨⟨h1, h2, h3⟩, h4⟩ := receiveBody_fifo (ingressBytes s.cfg bs) s
    exact ⟨⟨h1, h2, h3⟩, h4⟩
  | taskRx => exact .inl (execTaskRx_fifo s)
  | taskWait => exact .inr (.inl rfl)
  | taskTx => exact .inr (.inr (.inl rfl))
  | init ok => exact .inr (.inr (.inr ⟨ok, rfl⟩))

end

/-- Settles O45: outside TASK_TX, the atomic turn and INIT no operation writes the flag, and no further step of CMDCTX does. -/
theorem onlyTaskTxWritesInflight : Obligations.OnlyTaskTxWritesInflight := by
  unfold Obligations.OnlyTaskTxWritesInflight
  refine ⟨fun s t i h => ?_, fun s t h => (cmdResume_keeps h).fifo.2⟩
  rcases exec_fifo_inflight i s with hk | rfl | rfl | ⟨ok, rfl⟩
  · exact .inl (hk.of_eq h).2
  · obtain ⟨_, hf | ha⟩ := (execTaskWait_fifo s).of_eq h
    · exact .inl hf
    · exact .inr (.inr (.inl ⟨rfl, ha⟩))
  · exact .inr (.inl rfl)
  · exact .inr (.inr (.inr ⟨ok, rfl⟩))

/-- Settles O46: each operation's step of the three queues. -/
theorem queuesAreFifo : Obligations.QueuesAreFifo := by
  unfold Obligations.QueuesAreFifo
  intro s t i h hi
  have hk : FifoKeeps s t := by
    rcases exec_fifo_inflight i s with hk | rfl | rfl | ⟨ok, rfl⟩
    · exact (hk.of_eq h).1
    · exact ((execTaskWait_fifo s).of_eq h).1
    · exact (execTaskTx_fifo s).of_eq h
    · exact absurd rfl (hi ok)
  exact ⟨hk.txq, hk.rxq, hk.egq⟩

/-! ### What a step takes -/

section
variable {s : State}

/-- A frame is fetched at RD, whatever bytes the presented encoding has (R24, R140). -/
theorem fetch_frame {e : Encoded} {bs : List Byte} (hf : e.wireFormat = .frame) (hu : s.unread = some bs) :
    fetch s e = decodeFrame s.cfg bs := by
  simp only [fetch, hf, hu]

theorem decodeFrame_ok {c : Config} {bs : List Byte} {i : Instr} (h : decodeFrame c bs = .ok i) : ∃ seq p, i = .frame seq p := by
  unfold decodeFrame at h
  split at h
  · cases h
  · cases h; exact ⟨_, _, rfl⟩

/-- The bridge task's next step is the operation its marker names (R238). -/
theorem bridgeResume_eq_exec (s : State) :
    bridgeResume s = exec (match s.bridge with | .wait => .taskWait | .tx1 _ => .taskTx | .tx2 _ _ => .taskTx | _ => .taskRx) s := by
  unfold bridgeResume
  cases s.bridge <;> rfl

/-- With nothing placed the free stream's next input is taken as if it had been (R300). -/
theorem nextStimulus_stream (h : s.script = []) :
    nextStimulus s = nextStimulus { s with script := [Config.envStream s.tick], tick := s.tick + 1 } := by
  simp only [nextStimulus, h]

end

/-- Settles O7: the frame at RD is FRAME's, which only CMDCTX may call. -/
theorem stepRunsFrameAtReadIndex : Obligations.StepRunsFrameAtReadIndex := by
  unfold Obligations.StepRunsFrameAtReadIndex
  intro s e env rest bs i hc hs hf hu hd
  have hrun : step s = runCalled i { s with script := rest, env := env } := by
    have hu' : State.unread { s with script := rest, env := env } = some bs := hu
    rw [step_of_script hc hs]
    simp only [runChoice, runEncoded, fetch_frame hf hu', hd]
  obtain ⟨seq, p, rfl⟩ := decodeFrame_ok hd
  rw [hrun]
  exact ⟨fun h => runCalled_ok (by simp [mayCall, callers, h]), fun h => runCalled_refused (by simp [mayCall, callers, h])⟩

/-- Settles O8: the free stream where nothing is placed, and the chosen task's next step. -/
theorem stepTakesInputsAndResumesTasks : Obligations.StepTakesInputsAndResumesTasks := by
  unfold Obligations.StepTakesInputsAndResumesTasks
  refine ⟨fun s h => ?_, fun s a env rest hc hs => ?_⟩
  · simp only [step, stepOnce, nextStimulus_stream h]
  · rw [step_of_script hc hs]
    refine ⟨?_, ?_, fun hcmd hbridge => ?_⟩
    · rintro rfl; rfl
    · rintro rfl; exact bridgeResume_eq_exec _
    · cases a with
      | cmdctx => exact absurd rfl hcmd
      | bridge => exact absurd rfl hbridge
      | _ => rfl

/-- Settles O9: each register's value is read off the reset state. -/
theorem resetValues : Obligations.ResetValues := by
  unfold Obligations.ResetValues
  intro c
  exact ⟨rfl, rfl, rfl, rfl, rfl, rfl, rfl, rfl, rfl, rfl, rfl, rfl, rfl, rfl, rfl⟩

end Sys2Proof.Machine
end

section
/-! PROOFS. The family 30_encoding: the scanner's valid frames and the one encoding each has, decode of encode for every instruction, the DLC table, and the device-to-host rows. -/

namespace Sys2Proof

/-! ### A frame's fields -/

/-- A stretch between two others is the slice at its place. -/
theorem slice_middle {a b t : List Byte} {i n : Nat} (ha : a.length = i) (hb : b.length = n) : slice (a ++ (b ++ t)) i n = b := by
  rw [slice, List.drop_left' ha, List.take_left' hb]

theorem take_add_slice (bs : List Byte) (i n : Nat) : bs.take (i + n) = bs.take i ++ slice bs i n := List.take_add

theorem slice_length {bs : List Byte} {i n : Nat} (h : i + n ≤ bs.length) : (slice bs i n).length = n := by
  simp only [slice, List.length_take, List.length_drop]; omega

/-- A field read as a number is written back as it was (R15). -/
theorem leBytes_unLE_slice {bs : List Byte} {i n : Nat} (h : i + n ≤ bs.length) : leBytes n (unLE (slice bs i n)) = slice bs i n := by
  have hfield := leBytes_unLE (slice bs i n)
  rwa [slice_length h] at hfield

/-- What a frame has before its checksum byte (R101). -/
def frameBody (c : Config) (seq : Nat) (p : List Byte) : List Byte :=
  Config.tag :: (leBytes c.w.bytes (c.ovh + p.length) ++ leBytes c.w.bytes seq ++ p)

theorem frameBytes_eq (c : Config) (seq : Nat) (p : List Byte) :
    frameBytes c seq p = frameBody c seq p ++ [0 - sum8 (frameBody c seq p)] := rfl

/-- The length field of the bytes at RD, as the scanner reads it (R101, R149). -/
abbrev lengthField (c : Config) (bs : List Byte) : Nat := unLE (slice bs 1 c.w.bytes)

/-- The sequence field (R101). -/
abbrev seqField (c : Config) (bs : List Byte) : Nat := unLE (slice bs (1 + c.w.bytes) c.w.bytes)

/-- The payload that the length field gives the bytes (R101, R153). -/
abbrev payloadField (c : Config) (bs : List Byte) : List Byte := slice bs (1 + 2 * c.w.bytes) (lengthField c bs - c.ovh)

/-- The tests of the scanner that a valid frame at the head of the bytes passes (R147 to R151). -/
structure FrameAt (c : Config) (bs : List Byte) : Prop where
  tag : bs.head? = some Config.tag
  overhead : c.ovh ≤ lengthField c bs
  capacity : lengthField c bs ≤ c.cap - 1
  whole : lengthField c bs ≤ bs.length
  sum : sum8 (bs.take (lengthField c bs)) = 0

/-- The scanner accepts where every test passes, and then it answers the fields (R146, R153). -/
theorem scanBytes_ok_iff {c : Config} {bs : List Byte} {r : Nat × List Byte} :
    scanBytes c bs = .ok r ↔ FrameAt c bs ∧ r = (seqField c bs, payloadField c bs) := by
  cases bs with
  | nil => exact ⟨nofun, fun ⟨h, _⟩ => nomatch h.tag⟩
  | cons b bs =>
    constructor
    · intro h
      simp only [scanBytes] at h
      split_ifs at h with htag hshort hlen hwhole hsum
      cases h
      rw [not_not] at htag hsum
      rw [not_or, Nat.not_lt, Nat.not_lt] at hlen
      exact ⟨⟨congrArg some htag, hlen.1, hlen.2, Nat.not_lt.1 hwhole, hsum⟩, rfl⟩
    · rintro ⟨⟨htag, hovh, hcap, hwhole, hsum⟩, rfl⟩
      have hlen : ¬ (lengthField c (b :: bs) < c.ovh ∨ lengthField c (b :: bs) > c.cap - 1) := by omega
      simp only [scanBytes]
      rw [if_neg (not_not.2 (Option.some.inj htag)), if_neg (Nat.not_lt.2 (hovh.trans hwhole)), if_neg hlen,
        if_neg (Nat.not_lt.2 hwhole), if_neg (not_not.2 hsum)]

section
variable {c : Config} {bs : List Byte}

/-- The tag, the checksum byte and the two fields lie in the accepted bytes (R101). -/
theorem FrameAt.header_le (h : FrameAt c bs) : 2 + 2 * c.w.bytes ≤ lengthField c bs := h.overhead

theorem FrameAt.payload_length (h : FrameAt c bs) : c.ovh + (payloadField c bs).length = lengthField c bs := by
  have hovh : c.ovh = 2 + 2 * c.w.bytes := rfl
  have hhead := h.header_le
  have hwhole := h.whole
  rw [slice_length (by omega)]
  omega

/-- A one-byte end that brings the sum to zero is the checksum byte (R107). -/
theorem eq_checksum_of_sum {body last : List Byte} (hlast : last.length = 1) (h : sum8 (body ++ last) = 0) : last = [0 - sum8 body] := by
  obtain ⟨x, rfl⟩ := List.length_eq_one_iff.1 hlast
  have hx : sum8 body + x = 0 := by simpa [sum8] using h
  rw [eq_sub_of_add_eq' hx]

/-- The accepted bytes before the checksum byte are the tag and the three fields (R101). -/
theorem FrameAt.body (h : FrameAt c bs) : bs.take (lengthField c bs - 1) = frameBody c (seqField c bs) (payloadField c bs) := by
  have hovh : c.ovh = 2 + 2 * c.w.bytes := rfl
  have hhead := h.header_le
  have hwhole := h.whole
  have htag : bs.take 1 = [Config.tag] := by rw [List.take_one, h.tag]; rfl
  have hlen : leBytes c.w.bytes (c.ovh + (payloadField c bs).length) = slice bs 1 c.w.bytes := by
    rw [h.payload_length, leBytes_unLE_slice (by omega)]
  have hseq : leBytes c.w.bytes (seqField c bs) = slice bs (1 + c.w.bytes) c.w.bytes := leBytes_unLE_slice (by omega)
  have hsplit : lengthField c bs - 1 = 1 + c.w.bytes + c.w.bytes + (lengthField c bs - c.ovh) := by omega
  have hoff : 1 + c.w.bytes + c.w.bytes = 1 + 2 * c.w.bytes := by omega
  rw [frameBody, hlen, hseq, hsplit, take_add_slice, take_add_slice, take_add_slice, htag, hoff]
  simp

/-- The accepted bytes are the frame of the fields read from them (R101, R107). -/
theorem FrameAt.take_eq (h : FrameAt c bs) : bs.take (lengthField c bs) = frameBytes c (seqField c bs) (payloadField c bs) := by
  have hhead := h.header_le
  have hwhole := h.whole
  have hsplit : bs.take (lengthField c bs) = bs.take (lengthField c bs - 1) ++ slice bs (lengthField c bs - 1) 1 := by
    rw [← take_add_slice, Nat.sub_add_cancel (by omega)]
  have hsum := h.sum
  rw [hsplit, h.body] at hsum
  rw [hsplit, h.body, frameBytes_eq, eq_checksum_of_sum (slice_length (by omega)) hsum]

theorem FrameAt.seqField_lt (h : FrameAt c bs) : seqField c bs < c.seqMod := by
  have hhead := h.header_le
  have hwhole := h.whole
  have hlt := unLE_lt (slice bs (1 + c.w.bytes) c.w.bytes)
  rw [slice_length (by omega)] at hlt
  rw [c.seqMod_eq]
  exact hlt

/-- What the scanner accepts is the frame of what it reads (R101, R107). -/
theorem scanBytes_frame {seq : Nat} {p : List Byte} (h : scanBytes c bs = .ok (seq, p)) :
    bs.take (c.ovh + p.length) = frameBytes c seq p ∧ seq < c.seqMod := by
  obtain ⟨hf, hr⟩ := scanBytes_ok_iff.1 h
  obtain ⟨rfl, rfl⟩ := Prod.mk.inj hr
  exact ⟨by rw [hf.payload_length, hf.take_eq], hf.seqField_lt⟩

end

section
variable {c : Config} {seq : Nat} {p : List Byte}

/-- A frame and what follows it, field by field (R101). -/
theorem frameBytes_append (c : Config) (seq : Nat) (p tail : List Byte) : ∃ checksum : Byte, frameBytes c seq p ++ tail =
    [Config.tag] ++ (leBytes c.w.bytes (c.ovh + p.length) ++ (leBytes c.w.bytes seq ++ (p ++ checksum :: tail))) :=
  ⟨0 - sum8 (frameBody c seq p), by simp [frameBytes_eq, frameBody]⟩

theorem lengthField_frameBytes (h : c.ovh + p.length < c.seqMod) (tail : List Byte) :
    lengthField c (frameBytes c seq p ++ tail) = c.ovh + p.length := by
  obtain ⟨x, hx⟩ := frameBytes_append c seq p tail
  rw [hx, lengthField, slice_middle List.length_singleton (leBytes_length _ _), unLE_leBytes, ← c.seqMod_eq, Nat.mod_eq_of_lt h]

theorem seqField_frameBytes (h : seq < c.seqMod) (tail : List Byte) : seqField c (frameBytes c seq p ++ tail) = seq := by
  obtain ⟨x, hx⟩ := frameBytes_append c seq p tail
  rw [hx, seqField, ← List.append_assoc, slice_middle (by simp; omega) (leBytes_length _ _), unLE_leBytes, ← c.seqMod_eq,
    Nat.mod_eq_of_lt h]

theorem payloadField_frameBytes (h : c.ovh + p.length < c.seqMod) (tail : List Byte) : payloadField c (frameBytes c seq p ++ tail) = p := by
  rw [payloadField, lengthField_frameBytes h, Nat.add_sub_cancel_left]
  obtain ⟨x, hx⟩ := frameBytes_append c seq p tail
  rw [hx, ← List.append_assoc, ← List.append_assoc, slice_middle (by simp; omega) rfl]

/-- The scanner reads a frame's fields back, whatever bytes follow it (R101, R108). -/
theorem scanBytes_frameBytes (hfield : c.cap - 1 ≤ c.seqMod - 1) (hseq : seq < c.seqMod) (hp : c.ovh + p.length ≤ c.cap - 1)
    (tail : List Byte) : scanBytes c (frameBytes c seq p ++ tail) = .ok (seq, p) := by
  have hpos := c.seqMod_pos
  have hlen := lengthField_frameBytes (c := c) (seq := seq) (p := p) (by omega) tail
  have hpay := payloadField_frameBytes (c := c) (seq := seq) (p := p) (by omega) tail
  refine scanBytes_ok_iff.2 ⟨⟨rfl, by omega, by omega, by simp [hlen], ?_⟩, by rw [seqField_frameBytes hseq, hpay]⟩
  rw [hlen, List.take_left' (frameBytes_length c seq p)]
  exact frameBytes_sum c seq p

end

/-! ### Commands and reports -/

/-- The 32-bit identifier field comes back from as many bytes as hold its value (R113, R115). -/
theorem ofNat_unLE_leBytes {k : Nat} {ident : BitVec 32} (h : ident.toNat < 256 ^ k) :
    BitVec.ofNat 32 (unLE (leBytes k ident.toNat)) = ident := by
  rw [unLE_leBytes, Nat.mod_eq_of_lt h, BitVec.ofNat_toNat, BitVec.setWidth_eq]

/-- CAN_SEND's payload passes the tests of R186. -/
theorem decodeCommand_canSendBytes {c : Config} {ident : BitVec 32} {data : List Byte}
    (hident : ident.toNat < 2 ^ (8 * c.idw.bytes)) (hdata : data.length ≤ 8) :
    decodeCommand c (canSendBytes c ident data) = .ok (.canSend ident data) := by
  rw [pow_mul] at hident
  have hdlc : (BitVec.ofNat 8 data.length).toNat = data.length := by rw [BitVec.toNat_ofNat]; omega
  have hdrop : (leBytes c.idw.bytes ident.toNat ++ BitVec.ofNat 8 data.length :: data).drop c.idw.bytes = BitVec.ofNat 8 data.length :: data :=
    List.drop_left' (leBytes_length _ _)
  have htake : (leBytes c.idw.bytes ident.toNat ++ BitVec.ofNat 8 data.length :: data).take c.idw.bytes = leBytes c.idw.bytes ident.toNat :=
    List.take_left' (leBytes_length _ _)
  have hlen : (leBytes c.idw.bytes ident.toNat ++ BitVec.ofNat 8 data.length :: data).length + 1 = 2 + c.idw.bytes + data.length := by
    simp; omega
  change decodeCanSend c _ = _
  simp only [decodeCanSend, hdrop, htake, hlen, hdlc, ofNat_unLE_leBytes hident]
  rw [if_neg (by omega), if_neg (by omega), if_neg (by omega)]

/-- A command with an id of its own is unknown (R190). -/
theorem decodeCommand_unknown {c : Config} {id : Byte} {rest : List Byte} (h1 : id ≠ 0x01) (h2 : id ≠ 0x10) :
    decodeCommand c (id :: rest) = .ok (.unknown id rest) := by
  rw [decodeCommand, if_neg h1, if_neg h2]

/-- A report's payload byte by byte: the identifier is four bytes that decode to it (R115). -/
theorem reportBytes_layout (ident : BitVec 32) : ∃ b1 b2 b3 b4 : Byte, BitVec.ofNat 32 (unLE [b1, b2, b3, b4]) = ident ∧
    ∀ (id n : Byte) (data : List Byte), reportBytes id ident n data = id :: b1 :: b2 :: b3 :: b4 :: n :: data :=
  ⟨_, _, _, _, ofNat_unLE_leBytes (k := 4) ident.isLt, fun _ _ _ => rfl⟩

/-- The single-packet row of a format and an identifier type (R115, R116). -/
def reportRow : MsgFormat → IdType → BitVec 32 → List Byte → Instr
  | .classic, .standard => .reportClassicStd
  | .classic, .extended => .reportClassicExt
  | .fd, .standard => .reportFdStd
  | .fd, .extended => .reportFdExt

/-- The first-fragment row of a format and an identifier type (R117). -/
def firstRow : MsgFormat → IdType → BitVec 32 → Byte → List Byte → Instr
  | .classic, .standard => .reportFirstClassicStd
  | .classic, .extended => .reportFirstClassicExt
  | .fd, .standard => .reportFirstFdStd
  | .fd, .extended => .reportFirstFdExt

/-- A single-packet row comes back where the count byte can say the data's length (R115). -/
theorem decode_encode_reportRow (c : Config) (f : MsgFormat) (t : IdType) (ident : BitVec 32) {data : List Byte} (h : data.length < 256) :
    decode c (encode c (reportRow f t ident data)) = .ok (reportRow f t ident data) := by
  obtain ⟨b1, b2, b3, b4, hident, hlayout⟩ := reportBytes_layout ident
  have hcount : (BitVec.ofNat 8 data.length).toNat = data.length := by rw [BitVec.toNat_ofNat]; omega
  cases f <;> cases t <;> simp [reportRow, decode, encode, onWire, singleReport, hlayout, decodeReport, hident, hcount]

/-- A first-fragment row comes back where the data are `CAP1` bytes (R117). -/
theorem decode_encode_firstRow {c : Config} (f : MsgFormat) (t : IdType) (ident : BitVec 32) (n : Byte) {data : List Byte}
    (h : data.length = c.cap1) : decode c (encode c (firstRow f t ident n data)) = .ok (firstRow f t ident n data) := by
  obtain ⟨b1, b2, b3, b4, hident, hlayout⟩ := reportBytes_layout ident
  cases f <;> cases t <;> simp [firstRow, decode, encode, onWire, hlayout, decodeReport, hident, h]

theorem reportFits_length {c : Config} {f : MsgFormat} {t : IdType} {ident : BitVec 32} {data : List Byte}
    (h : reportFits c f t ident data = true) : data.length < 256 := by
  simp only [reportFits, Bool.and_eq_true, decide_eq_true_eq] at h
  obtain ⟨⟨-, hcount⟩, -⟩ := h
  cases f <;> simp only [countFits, decide_eq_true_eq] at hcount <;> omega

theorem firstFits_length {c : Config} {f : MsgFormat} {t : IdType} {ident : BitVec 32} {n : Byte} {data : List Byte}
    (h : firstFits c f t ident n data = true) : data.length = c.cap1 := by
  simp only [firstFits, Bool.and_eq_true, decide_eq_true_eq] at h
  exact h.2

/-- Decode of encode, for every well-formed instruction of a build whose length field can say every frame's length (R11). -/
theorem decode_encode {c : Config} (hfield : c.cap - 1 ≤ c.seqMod - 1) {i : Instr} (h : i.wf c = true) : decode c (encode c i) = .ok i := by
  cases i with
  | frame seq p =>
    simp only [Instr.wf, Bool.and_eq_true, decide_eq_true_eq] at h
    obtain ⟨hseq, hlen⟩ := h
    have hs := scanBytes_frameBytes hfield hseq hlen []
    rw [List.append_nil] at hs
    simp only [decode, encode, onWire, decodeFrame, hs]
  | canSend ident data =>
    simp only [Instr.wf, Bool.and_eq_true, decide_eq_true_eq] at h
    obtain ⟨hident, hdata⟩ := h
    simp only [decode, encode, onWire, decodeCommand_canSendBytes hident hdata, Command.toInstr]
  | unknown id rest =>
    simp only [Instr.wf, Bool.and_eq_true, decide_eq_true_eq] at h
    obtain ⟨hconnect, hcanSend⟩ := h
    simp only [decode, encode, onWire, decodeCommand_unknown hconnect hcanSend, Command.toInstr]
  | reportClassicStd ident data => exact decode_encode_reportRow c .classic .standard ident (reportFits_length h)
  | reportClassicExt ident data => exact decode_encode_reportRow c .classic .extended ident (reportFits_length h)
  | reportFdStd ident data => exact decode_encode_reportRow c .fd .standard ident (reportFits_length h)
  | reportFdExt ident data => exact decode_encode_reportRow c .fd .extended ident (reportFits_length h)
  | reportFirstClassicStd ident n data => exact decode_encode_firstRow .classic .standard ident n (firstFits_length h)
  | reportFirstClassicExt ident n data => exact decode_encode_firstRow .classic .extended ident n (firstFits_length h)
  | reportFirstFdStd ident n data => exact decode_encode_firstRow .fd .standard ident n (firstFits_length h)
  | reportFirstFdExt ident n data => exact decode_encode_firstRow .fd .extended ident n (firstFits_length h)
  | keepAlive => exact if_pos rfl
  | _ => rfl

/-- Settles O2: by cases on the instruction; the frame through the scanner's fields, the reports through their byte layout. -/
theorem decodeOfEncode : Obligations.DecodeOfEncode := by
  unfold Obligations.DecodeOfEncode
  refine ⟨fun c i hc hi => ?_, fun c ident n data hd => ?_⟩
  · obtain ⟨-, hfield, -⟩ := hc
    exact decode_encode hfield hi
  · exact ⟨decode_encode_firstRow .classic .standard ident n hd, decode_encode_firstRow .classic .extended ident n hd⟩

/-- Settles O3: the scanner's tests on the whole string are R108's, and the fields it reads determine the accepted bytes. -/
theorem acceptedBytesAreTheFrame : Obligations.AcceptedBytesAreTheFrame := by
  unfold Obligations.AcceptedBytesAreTheFrame
  refine ⟨fun c f => ⟨?_, ?_⟩, fun c bs seq p h => ⟨(scanBytes_frame h).1, (scanBytes_frame h).2, (Machine.scanBytes_length h).2⟩⟩
  · rintro ⟨seq, p, hs, hlen⟩
    obtain ⟨hf, hr⟩ := scanBytes_ok_iff.1 hs
    obtain ⟨rfl, rfl⟩ := Prod.mk.inj hr
    rw [hf.payload_length] at hlen
    have hsum := hf.sum
    rw [← hlen, List.take_length] at hsum
    exact ⟨hlen ▸ hf.overhead, hf.tag, hf.overhead, hf.capacity, hlen, hsum⟩
  · rintro ⟨-, htag, hovh, hcap, hlen, hsum⟩
    have hf : FrameAt c f := ⟨htag, hovh, hcap, hlen.ge, by rwa [lengthField, ← hlen, List.take_length]⟩
    exact ⟨_, _, scanBytes_ok_iff.2 ⟨hf, rfl⟩, by rw [hf.payload_length, lengthField, ← hlen]⟩

/-- Settles O1: each word is decoded by evaluation. -/
theorem sampleWordsDecode : Obligations.SampleWordsDecode := by
  unfold Obligations.SampleWordsDecode
  decide

/-- The byte subtraction from zero, written in numbers modulo 256 (R107). -/
theorem zero_sub_eq_ofNat (x : Byte) : 0 - x = BitVec.ofNat 8 ((256 - x.toNat) % 256) := by
  apply BitVec.eq_of_toNat_eq
  simp

/-- Settles O4: the checksum byte is the negated sum of the bytes before it, and accepted bytes are a frame. -/
theorem frameBytesSumToZero : Obligations.FrameBytesSumToZero := by
  unfold Obligations.FrameBytesSumToZero
  refine ⟨fun c seq p => ⟨frameBytes_sum c seq p, ?_⟩, fun c bs seq p h => ?_⟩
  · rw [frameBytes_eq, List.dropLast_concat, List.getLast?_concat, zero_sub_eq_ofNat]
  · rw [(scanBytes_frame h).1]
    exact frameBytes_sum c seq p

/-- Settles O5: the table by evaluation; a classic message's code is at most 8 (R32). -/
theorem dlcTable : Obligations.DlcTable := by
  unfold Obligations.DlcTable
  refine ⟨by decide, fun m ⟨hclassic, _⟩ hcode => ?_⟩
  cases hf : m.msgFormat with
  | classic => exact absurd (hclassic hf) (Nat.not_le.2 hcode)
  | fd => rfl

end Sys2Proof

namespace Sys2Proof.Machine

/-! ### The device-to-host rows -/

/-- The state after a payload's packet is formatted in a step of its own, BRIDGE at EMIT (R256). -/
def State.formatted (s : State) (p : List Byte) : State :=
  { s with buf := packetBytes s.cfg s.seq p, seq := (s.seq + 1) % s.cfg.seqMod, bridge := .emit (packetBytes s.cfg s.seq p) [] }

/-- The state after a payload's only packet is formatted and EMITted, BRIDGE at WAIT (R256, R265). -/
def State.emitted (s : State) (p : List Byte) : State :=
  { emitPacket (packetBytes s.cfg s.seq p) s.env.transportAvailable { s with
      buf := packetBytes s.cfg s.seq p, seq := (s.seq + 1) % s.cfg.seqMod } with bridge := .wait }

section
variable {s : State}

/-- BRIDGE emits a payload that fits: formatting alone, or EMIT in the same step with ATOMIC_OPS on (R46, R256). -/
theorem emitPayload_fits (h : s.bridgeReady) {p : List Byte} (hp : s.cfg.frameFits s.cfg.pkt p.length) :
    emitPayload p s = .next (if s.cfg.atomicOps then s.emitted p else s.formatted p) := by
  split_ifs with ha
  · exact emitPayload_atOnce h ha hp
  · exact emitPayload_ready h (by simpa using ha) hp

/-- EMIT does not depend on the marker BRIDGE leaves (R265). -/
theorem emitPacket_mark (pkt : List Byte) (a : Bool) (s : State) (buf : List Byte) (seq : Nat) (b b' : BridgePc) :
    { emitPacket pkt a { s with buf := buf, seq := seq, bridge := b } with bridge := b' } =
      { emitPacket pkt a { s with buf := buf, seq := seq } with bridge := b' } := by
  rw [emitPacket_set, emitPacket_set pkt a s buf seq s.bridge]

/-- EMIT, taken after the formatting step, ends where the one step ends (R265). -/
theorem bridgeResume_formatted (hr : s.running = true) (p : List Byte) : bridgeResume (s.formatted p) = .next (s.emitted p) := by
  have hrun : (s.formatted p).running = true := hr
  rw [bridgeResume_emit hrun rfl]
  exact congrArg Host.Outcome.next (emitPacket_mark _ _ s _ _ _ _)

theorem emitFragment_refuse (h : s.bridgeReady) (hf : s.cfg.fragMode = .refuse) (p : List Byte) :
    emitFragment p s = .refused .oversizedReport := by
  simp only [emitFragment, hf, whenBridgeIdle_ready _ h]

theorem emitFragment_fits (h : s.bridgeReady) (hf : s.cfg.fragMode = .twoPacket) {p : List Byte} (hp : s.cfg.frameFits s.cfg.pkt p.length) :
    emitFragment p s = .next (if s.cfg.atomicOps then s.emitted p else s.formatted p) := by
  rw [emitFragment_twoPacket p hf, emitPayload_fits h hp]

end

/-- Settles O51: each row is BRIDGE emitting the payload of its own id. -/
theorem reportRowsEmitTheirPayload : Obligations.ReportRowsEmitTheirPayload := by
  unfold Obligations.ReportRowsEmitTheirPayload
  intro s ident data h hfit
  have row (id : Byte) : emitPayload (singleReport id ident data) s =
      .next (if s.cfg.atomicOps then s.emitted (singleReport id ident data) else s.formatted (singleReport id ident data)) :=
    emitPayload_fits h (by rw [singleReport, reportBytes_length]; exact hfit)
  exact ⟨row 0x20, row 0x21, row 0x22, row 0x23, fun id => bridgeResume_formatted h.1 (singleReport id ident data)⟩

/-- Settles O52: each fragment row is BRIDGE emitting its own payload, or refused by the build. -/
theorem fragmentRowsEmitTheirPayload : Obligations.FragmentRowsEmitTheirPayload := by
  unfold Obligations.FragmentRowsEmitTheirPayload
  refine ⟨fun s ident n off data h => ⟨fun hf hfit => ?_, fun hf hfit => ?_, bridgeResume_formatted h.1, fun hf => ?_⟩, fun u pkt left hr hb => ?_⟩
  · have row (id : Byte) : emitFragment (reportBytes id ident n data) s =
        .next (if s.cfg.atomicOps then s.emitted (reportBytes id ident n data) else s.formatted (reportBytes id ident n data)) :=
      emitFragment_fits h hf (by rw [reportBytes_length]; exact hfit)
    exact ⟨row 0xA0, row 0xA1, row 0xA2, row 0xA3⟩
  · exact emitFragment_fits h hf (p := contBytes off data) (by rw [contBytes_length]; exact hfit)
  · have row := emitFragment_refuse h hf
    exact ⟨row _, row _, row _, row _, row _⟩
  · exact bridgeResume_emit hr hb

end Sys2Proof.Machine
end

section
/-! PROOFS. The family 40_parser_ops: RECEIVE in both full-ring profiles, the scanner's seven outcomes, the handler inside SCAN beside the command called directly, PROCESS to its end, INGRESS and FORMAT_FRAME. -/

namespace Sys2Proof.Machine

/-! ### RECEIVE, byte by byte -/

/-- RECEIVE's effect on RING and WR for bytes that fit (R141). -/
def State.appendAll : List Byte → State → State
  | [], s => s
  | b :: bs, s => State.appendAll bs (s.appendRing b)

section
variable {s : State}

theorem State.appendAll_frame (bs : List Byte) (s : State) :
    s.appendAll bs = { s with ring := (s.appendAll bs).ring, wr := (s.appendAll bs).wr } := by
  induction bs generalizing s with
  | nil => rfl
  | cons b bs ih => rw [State.appendAll, ih]; rfl

theorem State.appendRing_free (b : Byte) (h : s.ringOk) (hf : s.used ≠ s.cfg.cap - 1) : (s.appendRing b).free = s.free - 1 := by
  simp only [State.free, State.appendRing_used b h hf, State.appendRing_cfg]
  omega

/-- A ring that is not full has room for one byte. -/
theorem State.free_pos (h : s.ringOk) (hf : s.used ≠ s.cfg.cap - 1) : 1 ≤ s.free := by
  have hlt := State.used_lt h
  unfold State.free
  omega

/-- WR moves by one place for each byte written, over plain numbers. -/
theorem wr_next (wr n cap : Nat) : ((wr + 1) % cap + n) % cap = (wr + (n + 1)) % cap := by
  rw [Nat.mod_add_mod]
  congr 1
  omega

theorem State.appendAll_wr (bs : List Byte) (h : s.ringOk) : (s.appendAll bs).wr = (s.wr + bs.length) % s.cfg.cap := by
  induction bs generalizing s with
  | nil => exact (Nat.mod_eq_of_lt h.2).symm
  | cons b bs ih => exact (ih (State.appendRing_ringOk b h)).trans (wr_next _ _ _)

/-- Bytes that fit are appended to the unread region (R141). -/
theorem State.appendAll_unread {bs u : List Byte} (h : s.ringOk) (hu : s.unread = some u) (hb : bs.length ≤ s.free) :
    (s.appendAll bs).unread = some (u ++ bs) := by
  induction bs generalizing s u with
  | nil => rw [List.append_nil]; exact hu
  | cons b bs ih =>
    have hf : s.used ≠ s.cfg.cap - 1 := by
      intro e
      simp [State.free, e] at hb
    have hroom : bs.length ≤ (s.appendRing b).free := by
      rw [State.appendRing_free b h hf]
      exact Nat.le_sub_one_of_lt hb
    rw [State.appendAll, ih (State.appendRing_ringOk b h) (State.appendRing_unread b h hu hf) hroom, List.append_assoc]
    rfl

/-- RECEIVE with REJECT appends what fits, then answers or raises (R141); `i` bytes were accepted before. -/
theorem receiveReject_eq (bs : List Byte) (i : Nat) (h : s.ringOk) :
    receiveReject bs i s = if bs.length ≤ s.free then (s.appendAll bs).returns (.bool true)
      else ((s.appendAll (bs.take s.free)).raise (.backpressure (.ringFull (i + s.free)))).returns (.bool false) := by
  induction bs generalizing i s with
  | nil => rfl
  | cons b bs ih =>
    by_cases hf : s.used = s.cfg.cap - 1
    · have hz : s.free = 0 := by rw [State.free, hf, Nat.sub_self]
      rw [receiveReject, if_pos ((State.full_iff h).2 hf), if_neg (by simp [hz]), hz]; rfl
    · obtain ⟨k, hk⟩ : ∃ k, s.free = k + 1 := Nat.exists_eq_add_of_le' (State.free_pos h hf)
      rw [receiveReject, if_neg fun e => hf ((State.full_iff h).1 e), ih (i + 1) (State.appendRing_ringOk b h),
        State.appendRing_free b h hf, hk, Nat.add_sub_cancel, Nat.add_right_comm]
      simp only [List.length_cons, Nat.add_le_add_iff_right]
      rfl

/-! One byte of RECEIVE with OVERWRITE (R142). -/

theorem overwriteByte_room (b : Byte) (h : s.ringOk) (hf : s.used ≠ s.cfg.cap - 1) : overwriteByte b s = s.appendRing b :=
  if_neg fun e => hf ((State.full_iff h).1 e)

theorem overwriteByte_full (b : Byte) (h : s.ringOk) (hf : s.used = s.cfg.cap - 1) :
    overwriteByte b s = ((s.advanceRd 1).appendRing b).raise (.backpressure .ringOverwrite) :=
  if_pos ((State.full_iff h).2 hf)

@[simp] theorem overwriteByte_cfg (b : Byte) (s : State) : (overwriteByte b s).cfg = s.cfg := by rw [overwriteByte_frame]

theorem overwriteByte_ringOk (b : Byte) (h : s.ringOk) : (overwriteByte b s).ringOk := by
  by_cases hf : s.used = s.cfg.cap - 1
  · rw [overwriteByte_full b h hf]
    exact State.appendRing_ringOk b (State.advanceRd_ringOk 1 h)
  · rw [overwriteByte_room b h hf]
    exact State.appendRing_ringOk b h

/-- At a full ring the oldest unread byte is given up for the new one (R142, D3). -/
theorem overwriteByte_unread {u : List Byte} (b : Byte) (h : s.ringOk) (hcap : 2 ≤ s.cfg.cap) (hu : s.unread = some u) :
    (overwriteByte b s).unread = some ((u ++ [b]).drop (u.length + 1 - (s.cfg.cap - 1))) := by
  have hlen := State.unread_length hu
  have hlt := State.used_lt h
  by_cases hf : s.used = s.cfg.cap - 1
  · have h1 : 1 ≤ s.used := by omega
    have hused : (s.advanceRd 1).used ≠ (s.advanceRd 1).cfg.cap - 1 := by
      rw [State.advanceRd_used 1 h h1, State.advanceRd_cfg]; omega
    have hone : u.length + 1 - (s.cfg.cap - 1) = 1 := by omega
    rw [overwriteByte_full b h hf, hone, List.drop_append_of_le_length (by omega)]
    exact State.appendRing_unread b (State.advanceRd_ringOk 1 h) (State.advanceRd_unread 1 h hu h1) hused
  · have hzero : u.length + 1 - (s.cfg.cap - 1) = 0 := by omega
    rw [overwriteByte_room b h hf, hzero, List.drop_zero]
    exact State.appendRing_unread b h hu hf

/-- One event for a byte given up, none where there was room (R142). -/
theorem overwriteByte_raised {u : List Byte} (b : Byte) (h : s.ringOk) (hcap : 2 ≤ s.cfg.cap) (hu : s.unread = some u) :
    (overwriteByte b s).raised = s.raised ++ List.replicate (u.length + 1 - (s.cfg.cap - 1)) (.backpressure .ringOverwrite) := by
  have hlen := State.unread_length hu
  have hlt := State.used_lt h
  by_cases hf : s.used = s.cfg.cap - 1
  · rw [overwriteByte_full b h hf, show u.length + 1 - (s.cfg.cap - 1) = 1 by omega]; rfl
  · rw [overwriteByte_room b h hf, show u.length + 1 - (s.cfg.cap - 1) = 0 by omega, List.replicate_zero, List.append_nil]; rfl

/-- The loop of RECEIVE with OVERWRITE: the latest bytes stay, one event for each byte given up (R142). -/
theorem receiveOverwrite_latest {u : List Byte} (bs : List Byte) (h : s.ringOk) (hcap : 2 ≤ s.cfg.cap) (hu : s.unread = some u) :
    (receiveOverwrite bs s).unread = some ((u ++ bs).drop (u.length + bs.length - (s.cfg.cap - 1))) ∧
      (receiveOverwrite bs s).raised =
        s.raised ++ List.replicate (u.length + bs.length - (s.cfg.cap - 1)) (.backpressure .ringOverwrite) := by
  have hlen := State.unread_length hu
  have hlt := State.used_lt h
  induction bs generalizing s u with
  | nil =>
    have hzero : u.length + ([] : List Byte).length - (s.cfg.cap - 1) = 0 := by rw [List.length_nil]; omega
    rw [hzero, List.append_nil, List.drop_zero, List.replicate_zero, List.append_nil]
    exact ⟨hu, rfl⟩
  | cons b bs ih =>
    have hok := overwriteByte_ringOk b h
    have hu' := overwriteByte_unread b h hcap hu
    obtain ⟨hun, hra⟩ := ih hok (by rwa [overwriteByte_cfg]) hu' (State.unread_length hu') (State.used_lt hok)
    rw [overwriteByte_cfg] at hun hra
    rw [overwriteByte_raised b h hcap hu, List.append_assoc, ← List.replicate_add] at hra
    have hd : (u ++ [b]).length = u.length + 1 := by simp
    rw [List.length_drop, hd] at hun hra
    refine ⟨hun.trans (congrArg some ?_), hra.trans ?_⟩
    · have hsplit : (u ++ [b]).drop (u.length + 1 - (s.cfg.cap - 1)) ++ bs = (u ++ b :: bs).drop (u.length + 1 - (s.cfg.cap - 1)) := by
        rw [← List.drop_append_of_le_length (by simp), List.append_assoc]; rfl
      rw [hsplit, List.drop_drop]
      congr 1
      rw [List.length_cons]; omega
    · congr 2
      rw [List.length_cons]; omega

theorem receiveOverwrite_wr (bs : List Byte) (h : s.ringOk) : (receiveOverwrite bs s).wr = (s.wr + bs.length) % s.cfg.cap := by
  induction bs generalizing s with
  | nil => exact (Nat.mod_eq_of_lt h.2).symm
  | cons b bs ih =>
    rw [receiveOverwrite, ih (overwriteByte_ringOk b h), overwriteByte_wr, overwriteByte_cfg]
    exact wr_next _ _ _

theorem receiveOverwrite_ret (bs : List Byte) (s : State) : (receiveOverwrite bs s).ret = .none := by
  induction bs generalizing s with
  | nil => rfl
  | cons b bs ih => exact ih _

end

/-- Settles O12: the loop appends the first bytes, as many as fit, by induction on the bytes. -/
theorem receiveRejectAppendsWhatFits : Obligations.ReceiveRejectAppendsWhatFits := by
  unfold Obligations.ReceiveRejectAppendsWhatFits
  intro s u b hr hp hi hu
  have h : s.ringOk := ⟨hi.1, hi.2.1⟩
  have hkeep (bs : List Byte) : (s.appendAll bs).rd = s.rd ∧ (s.appendAll bs).raised = s.raised := by
    rw [State.appendAll_frame]; exact ⟨rfl, rfl⟩
  refine ⟨receiveReject b 0 s, by rw [exec, execReceive_ready b hr, receiveBody, hp], ?_⟩
  rw [receiveReject_eq b 0 h]
  by_cases hle : b.length ≤ s.free
  · rw [if_pos hle, if_pos hle, List.take_of_length_le hle, Nat.min_eq_left hle, decide_eq_true hle]
    exact ⟨State.appendAll_unread h hu hle, (hkeep b).1, State.appendAll_wr b h, rfl, (hkeep b).2⟩
  · have hlen : (b.take s.free).length = s.free := List.length_take_of_le (by omega)
    rw [if_neg hle, if_neg hle, Nat.min_eq_right (by omega), decide_eq_false hle]
    refine ⟨State.appendAll_unread h hu hlen.le, (hkeep _).1, ?_, rfl, ?_⟩
    · have hwr := State.appendAll_wr (b.take s.free) h
      rwa [hlen] at hwr
    · rw [State.returns_raised, State.raise_raised, (hkeep _).2, Nat.zero_add]

/-- Settles O13: by induction on the bytes, each giving up the oldest one where the ring is full. -/
theorem receiveOverwriteKeepsTheLatest : Obligations.ReceiveOverwriteKeepsTheLatest := by
  unfold Obligations.ReceiveOverwriteKeepsTheLatest
  intro s u b hr hp hcap hi hu
  have h : s.ringOk := ⟨hi.1, hi.2.1⟩
  obtain ⟨hun, hra⟩ := receiveOverwrite_latest b h hcap hu
  exact ⟨receiveOverwrite b s, by rw [exec, execReceive_ready b hr, receiveBody, hp], hun, receiveOverwrite_wr b h,
    receiveOverwrite_ret b s, hra⟩

/-! ### The scanner's outcomes -/

section
variable {s : State} {bs : List Byte}

theorem execScan_error {o : ScanOutcome} (h : s.parserReady) (hu : s.unread = some bs) (hs : scanBytes s.cfg bs = .error o) :
    exec .scan s = .next (scanReject o s) := by
  rw [exec, execScan, whenParserIdle_ready _ h, scanStep_error hu hs]

theorem execScan_accept {seq : Nat} {p : List Byte} (h : s.parserReady) (hu : s.unread = some bs)
    (hs : scanBytes s.cfg bs = .ok (seq, p)) : exec .scan s = acceptFrame p s := by
  rw [exec, execScan, whenParserIdle_ready _ h, scanStep_accept hu hs]

/-- FRAME's bytes are all unread where the scanner accepts (R150). -/
theorem execFrame_accept {seq : Nat} {p : List Byte} (h : s.parserReady) (hu : s.unread = some bs)
    (hs : scanBytes s.cfg bs = .ok (seq, p)) : exec (.frame seq p) s = acceptFrame p s := by
  have hle := (scanBytes_length hs).1
  rw [State.unread_length hu] at hle
  rw [exec, execFrame, whenParserIdle_ready _ h, if_neg (Nat.not_lt.2 hle)]

/-- The scanner stops where nothing is unread (R152). -/
theorem execScan_empty (h : s.parserReady) (hused : s.used = 0) : exec .scan s = .next { s with ret := .outcome .stopEmpty } := by
  have hu : s.unread = some [] := by rw [State.unread, hused]; rfl
  exact execScan_error h hu rfl

end

/-- The bytes at RD begin with the tag, and at least `OVH` are unread (R147, R148). -/
structure HeaderAt (c : Config) (b : Byte) (bs : List Byte) : Prop where
  tag : b = Config.tag
  whole : c.ovh ≤ (b :: bs).length

section
variable {c : Config} {b : Byte} {bs : List Byte}

theorem scanBytes_nonTag (h : b ≠ Config.tag) : scanBytes c (b :: bs) = .error .skipNonTag := if_pos h

theorem scanBytes_short (ht : b = Config.tag) (h : (b :: bs).length < c.ovh) : scanBytes c (b :: bs) = .error .stopShort := by
  rw [scanBytes, if_neg (not_not.2 ht), if_pos h]

theorem HeaderAt.badLen (hh : HeaderAt c b bs) (h : lengthField c (b :: bs) < c.ovh ∨ c.cap - 1 < lengthField c (b :: bs)) :
    scanBytes c (b :: bs) = .error .skipBadLen := by
  rw [scanBytes, if_neg (not_not.2 hh.tag), if_neg (Nat.not_lt.2 hh.whole)]
  exact if_pos h

/-- Past the header and a legal length the frame is incomplete, or its sum decides (R150, R151). -/
theorem HeaderAt.legal (hh : HeaderAt c b bs) (hovh : c.ovh ≤ lengthField c (b :: bs)) (hcap : lengthField c (b :: bs) ≤ c.cap - 1) :
    ((b :: bs).length < lengthField c (b :: bs) → scanBytes c (b :: bs) = .error .stopIncomplete) ∧
    (lengthField c (b :: bs) ≤ (b :: bs).length → sum8 ((b :: bs).take (lengthField c (b :: bs))) ≠ 0 →
      scanBytes c (b :: bs) = .error .skipBadSum) := by
  have hlen : ¬ (lengthField c (b :: bs) < c.ovh ∨ lengthField c (b :: bs) > c.cap - 1) := by omega
  rw [scanBytes, if_neg (not_not.2 hh.tag), if_neg (Nat.not_lt.2 hh.whole)]
  simp only [if_neg hlen]
  exact ⟨fun h => if_pos h, fun h hsum => by rw [if_neg (Nat.not_lt.2 h), if_pos hsum]⟩

end

/-- Settles O16: each condition is the scanner's test of its stop, and a stop only answers its outcome. -/
theorem scanStopsWriteNothing : Obligations.ScanStopsWriteNothing := by
  unfold Obligations.ScanStopsWriteNothing
  intro s bs h hu
  have hlen := State.unread_length hu
  rw [← hlen]
  refine ⟨fun h0 => execScan_empty h (hlen.symm.trans h0), fun ht hshort => ?_, fun ht hwhole hovh hcap hinc => ?_⟩
  all_goals
    rcases bs with _ | ⟨b, bs⟩
    · cases ht
    have htag : b = Config.tag := Option.some.inj ht
  · exact execScan_error h hu (scanBytes_short htag hshort)
  · exact execScan_error h hu ((HeaderAt.legal ⟨htag, hwhole⟩ hovh hcap).1 hinc)

/-- Settles O17: each condition is the scanner's test of its skip, which raises its event and passes one byte. -/
theorem scanSkipsOneByte : Obligations.ScanSkipsOneByte := by
  unfold Obligations.ScanSkipsOneByte
  intro s b bs h hu
  rw [← State.unread_length hu]
  refine ⟨fun hb => ?_, fun hb hwhole hbad => ?_, fun hb hwhole hovh hcap hle hsum => ?_⟩
  · exact execScan_error h hu (scanBytes_nonTag hb)
  · exact execScan_error h hu (HeaderAt.badLen ⟨hb, hwhole⟩ hbad)
  · exact execScan_error h hu ((HeaderAt.legal ⟨hb, hwhole⟩ hovh hcap).2 hle hsum)

/-- Settles O20: the scanner's acceptance of an overlong payload is the fault, and R12 leaves none overlong. -/
theorem overlongPayloadFaults : Obligations.OverlongPayloadFaults := by
  unfold Obligations.OverlongPayloadFaults
  refine ⟨fun s bs seq p h hu hs hlong => ?_, fun c bs seq p hfit hs => payload_le_cmdMax hfit (scanBytes_length hs).2⟩
  have hfault (l : List CmdFrame) : acceptFrame p { s with cmdctx := l } = .fault .cmdBufOverrun := if_pos hlong
  refine ⟨(execScan_accept h hu hs).trans (hfault s.cmdctx), ?_, (execFrame_accept h hu hs).trans (hfault s.cmdctx)⟩
  rw [exec, execProcess, whenParserIdle_ready _ h]
  simp only [processStep, hu, hs]
  exact hfault [.process]

/-! ### A command called directly

What a command leaves alone, where it stands after its first step, and that at most two further steps of CMDCTX end it. -/

/-- A step of a command begun at IDLE: nothing of the parser, the egress half or the bridge task changes, and the block goes on running. -/
structure CallKeeps (s t : State) : Prop where
  frame : t = { s with
    txq := t.txq, bst := t.bst, timing := t.timing, irqEn := t.irqEn, notifArmed := t.notifArmed, notif := t.notif
    cmdctx := t.cmdctx, ret := t.ret, raised := t.raised, outputs := t.outputs }
  alive : s.bst ≠ .halted → t.bst ≠ .halted

section
variable {s t : State}

theorem CallKeeps.refl (s : State) : CallKeeps s s := ⟨rfl, id⟩

theorem CallKeeps.trans {u : State} (h : CallKeeps s t) (h' : CallKeeps t u) : CallKeeps s u := by
  refine ⟨?_, fun hb => h'.alive (h.alive hb)⟩
  rw [h'.frame, h.frame]

theorem CallKeeps.running (h : CallKeeps s t) (hr : s.running = true) : t.running = true := by
  obtain ⟨hi, hb⟩ := State.running_iff.1 hr
  exact State.running_iff.2 ⟨by rw [h.frame]; exact hi, h.alive hb⟩

/-- A handler's step from an empty stack. -/
theorem HandlerKeeps.call (h : HandlerKeeps s t) (hc : s.cmdctx = []) (hb : s.bst ≠ .halted → t.bst ≠ .halted) : CallKeeps s t := by
  obtain ⟨hrd, hlock⟩ := h.idle hc
  obtain ⟨hcmd, hlen⟩ := h.cmd
  have hf := h.keeps.frame
  rw [hrd, hlock, hcmd, hlen] at hf
  exact ⟨hf, hb⟩

/-! No step of a command halts the block (R336). -/

theorem configureStep_alive (arb data : BitrateName) (hb : s.bst ≠ .halted) : (configureStep arb data s).1.bst ≠ .halted := by
  rcases configureStep_cases arb data s with ⟨_, e⟩ | ⟨_, _, e⟩ | ⟨a, d, _, _, _, ⟨_, e⟩ | ⟨_, e⟩⟩ <;> rw [e]
  · exact hb
  · exact hb
  · exact nofun
  · exact hb

theorem startStep_alive (hb : s.bst ≠ .halted) : (startStep s).1.bst ≠ .halted := by
  rcases startStep_cases s with ⟨_, e⟩ | ⟨_, _, _, e⟩ | ⟨_, o, e⟩ <;> rw [e]
  · exact hb
  · exact nofun
  · exact hb

theorem sendStep1_bst (m : CanMessage) (cmd : Bool) (s : State) : (sendStep1 m cmd s).bst = s.bst := by
  rcases sendStep1_cases m cmd s with ⟨_, _, e⟩ | ⟨_, _, e⟩ | ⟨_, e⟩ <;> rw [e]
  · rw [sendStep2_eq, cmdReturn_bst]
  · rw [cmdReturn_bst]

theorem commandBody_alive (cmd : Command) (hb : s.bst ≠ .halted) : (commandBody cmd s).bst ≠ .halted := by
  cases cmd with
  | connect p =>
    have hconf := configureStep_alive s.cfg.defaultArb s.cfg.defaultData hb
    rcases connectBody_cases p s with ⟨_, e⟩ | ⟨_, x, hx, e⟩ | ⟨_, x, hx, e⟩ <;> rw [commandBody, e]
    · exact hb
    · rw [hx] at hconf; exact hconf
    · rw [hx] at hconf; rw [cmdReturn_bst]; exact hconf
  | canSend ident data =>
    rcases canSendBody_cases ident data s with ⟨_, e⟩ | ⟨ty, id, _, e⟩ <;> rw [commandBody, e]
    · rw [ignoreCommand_eq, cmdReturn_bst]; exact hb
    · rw [sendStep1_bst]; exact hb
  | unknown id rest =>
    rw [commandBody, unknownBody, ignoreCommand_eq, cmdReturn_bst]; exact hb

theorem commandBody_call (cmd : Command) (hc : s.cmdctx = []) : CallKeeps s (commandBody cmd s) :=
  (commandBody_keeps cmd s).call hc (commandBody_alive cmd)

theorem ignoreCommand_call (cause : InvalidCause) (hc : s.cmdctx = []) : CallKeeps s (ignoreCommand cause s) :=
  (ignoreCommand_keeps cause s).call hc fun hb => by rw [ignoreCommand_eq, cmdReturn_bst]; exact hb

/-! #### Where a command stands -/

/-- The status a command returns (R183, R186, R187, R190). -/
def commandStatus (c : Config) : Command → Status
  | .connect _ => .done
  | .canSend ident _ => if (classify c ident).isSome then .done else .ignored
  | .unknown _ _ => .ignored

/-- A command called directly has returned its status, or one handler frame is left that will return `DONE`. -/
def State.standsAt (t : State) (st : Status) : Prop :=
  (t.cmdctx = [] ∧ t.ret = .status st) ∨ ∃ f, t.cmdctx = [f] ∧ f.isHandler = true ∧ f.ofCommand = true ∧ st = .done

theorem cmdReturn_standsAt (st : Status) (hc : t.cmdctx = []) : (cmdReturn (.status st) t).standsAt st := by
  rw [cmdReturn_idle _ hc]
  exact .inl ⟨hc, rfl⟩

theorem sendStep1_standsAt (m : CanMessage) (hc : s.cmdctx = []) : (sendStep1 m true s).standsAt .done := by
  rcases sendStep1_cases m true s with ⟨_, _, e⟩ | ⟨_, _, e⟩ | ⟨_, e⟩ <;> rw [e]
  · rw [sendStep2_eq]; exact cmdReturn_standsAt .done hc
  · exact .inr ⟨.send2 true, by rw [hc], rfl, rfl, rfl⟩
  · exact cmdReturn_standsAt .done hc

theorem connectBody_standsAt (param : Byte) (hc : s.cmdctx = []) : (connectBody param s).standsAt .done := by
  have hconf := (configureStep_keeps s.cfg.defaultArb s.cfg.defaultData s).2
  rcases connectBody_cases param s with ⟨_, e⟩ | ⟨_, x, hx, e⟩ | ⟨_, x, hx, e⟩ <;> rw [e]
  · exact .inr ⟨.stop2 true, by rw [hc], rfl, rfl, rfl⟩
  · rw [hx] at hconf
    exact .inr ⟨.connectStart, congrArg (CmdFrame.connectStart :: ·) (hconf.trans hc), rfl, rfl, rfl⟩
  · rw [hx] at hconf
    exact cmdReturn_standsAt .done (hconf.trans hc)

theorem commandBody_standsAt (cmd : Command) (hc : s.cmdctx = []) : (commandBody cmd s).standsAt (commandStatus s.cfg cmd) := by
  cases cmd with
  | connect p => exact connectBody_standsAt p hc
  | canSend ident data =>
    rcases canSendBody_cases ident data s with ⟨hcl, e⟩ | ⟨ty, id, hcl, e⟩ <;> rw [commandBody, e, commandStatus, hcl]
    · exact cmdReturn_standsAt .ignored hc
    · exact sendStep1_standsAt _ hc
  | unknown id rest => exact cmdReturn_standsAt .ignored hc

end

/-! ### A command inside SCAN

SCAN's handler makes the steps the command makes when it is called directly. The one difference is what the SCAN under way holds: its copy of the payload, LOCK, and its return on the stack. -/

/-- What a SCAN under way holds: CMD with its payload, the frame's and the payload's length, and the stack below. -/
structure OpenScan where
  cmd : Memory
  cmdLen : Nat
  len : Nat
  plen : Nat
  below : List CmdFrame

/-- The direct call's state `y` as it is inside the SCAN (R153). -/
def OpenScan.calling (o : OpenScan) (y : State) : State :=
  { y with
    cmd := o.cmd, cmdLen := o.cmdLen, lock := { owner := some .cmdctx, depth := 1 }
    cmdctx := y.cmdctx ++ .scanReturn o.len o.plen :: o.below }

/-- The SCAN's end where the direct call has ended at `y` (R153). -/
def OpenScan.ended (o : OpenScan) (y : State) : State :=
  { y with
    cmd := o.cmd, cmdLen := o.cmdLen, rd := (y.rd + o.len) % y.cfg.cap, lock := { owner := none, depth := 0 }
    cmdctx := o.below, ret := .outcome (.accept o.plen) }

/-- The SCAN around a direct call that has come to `y`. -/
def OpenScan.around (o : OpenScan) (y : State) : State := if y.cmdctx = [] then o.ended y else o.calling y

section
variable {y : State} (o : OpenScan)

theorem OpenScan.around_idle (hc : y.cmdctx = []) : o.around y = o.ended y := if_pos hc

theorem cmdReturn_calling (r : Ret) (hc : y.cmdctx = []) : cmdReturn r (o.calling y) = o.around (cmdReturn r y) := by
  have hs : (o.calling y).cmdctx = .scanReturn o.len o.plen :: o.below := by simp [OpenScan.calling, hc]
  rw [cmdReturn_scan r hs, cmdReturn_idle r hc, OpenScan.around_idle o (y := { y with ret := r }) hc]
  rfl

theorem pushFrame_calling (f : CmdFrame) (y : State) : (o.calling y).pushFrame f = o.around (y.pushFrame f) := rfl

theorem configureStep_calling (arb data : BitrateName) (y : State) :
    configureStep arb data (o.calling y) = (o.calling (configureStep arb data y).1, (configureStep arb data y).2) := by
  have hi : (o.calling y).ctrlIdle = y.ctrlIdle := rfl
  have hg : (o.calling y).cfg = y.cfg := rfl
  have he : (o.calling y).env = y.env := rfl
  simp only [configureStep, hi, hg, he]
  cases y.ctrlIdle
  · rfl
  · cases romLookup y.cfg.bitrateRom arb <;> cases romLookup y.cfg.bitrateRom data <;> cases y.env.configureOk <;> rfl

theorem startStep_calling (y : State) : startStep (o.calling y) = (o.calling (startStep y).1, (startStep y).2) := by
  have hb : (o.calling y).bst = y.bst := rfl
  have he : (o.calling y).env = y.env := rfl
  simp only [startStep, hb, he]
  split_ifs <;> rfl

theorem ignoreCommand_calling (cause : InvalidCause) (hc : y.cmdctx = []) :
    ignoreCommand cause (o.calling y) = o.around (ignoreCommand cause y) :=
  cmdReturn_calling o _ (y := y.raise (.invalidParams cause)) hc

theorem connectBody_calling (param : Byte) (hc : y.cmdctx = []) : connectBody param (o.calling y) = o.around (connectBody param y) := by
  have hg : (o.calling y).cfg = y.cfg := rfl
  simp only [connectBody, hg, configureStep_calling o]
  split_ifs
  · exact pushFrame_calling o _ _
  · exact cmdReturn_calling o _ ((configureStep_keeps _ _ y).2.trans hc)
  · exact pushFrame_calling o _ (y.setIrqEn false)

theorem sendStep2_calling (cmd : Bool) (hc : y.cmdctx = []) : sendStep2 cmd (o.calling y) = o.around (sendStep2 cmd y) := by
  rw [sendStep2_eq, sendStep2_eq]
  exact cmdReturn_calling o _ (y := { y with notif := { y.notif with txReady := y.notif.txReady || !y.txInflight } }) hc

theorem sendStep1_calling (m : CanMessage) (hc : y.cmdctx = []) : sendStep1 m true (o.calling y) = o.around (sendStep1 m true y) := by
  have hg : (o.calling y).cfg = y.cfg := rfl
  have hq : (o.calling y).txq = y.txq := rfl
  rcases pushBounded_cases Config.txqCap y.txq m with ⟨_, e⟩ | ⟨_, e⟩ <;> simp only [sendStep1, hg, hq, e]
  · split_ifs
    · exact sendStep2_calling o true (y := { y with txq := y.txq ++ [m] }) hc
    · exact pushFrame_calling o _ { y with txq := y.txq ++ [m] }
  · exact cmdReturn_calling o _ (y := y.raise (.backpressure .txQueueFull)) hc

/-- A command's first step inside SCAN is its first step called directly (R153, R180). -/
theorem commandBody_calling (cmd : Command) (hc : y.cmdctx = []) : commandBody cmd (o.calling y) = o.around (commandBody cmd y) := by
  cases cmd with
  | connect p => exact connectBody_calling o p hc
  | canSend ident data =>
    have hg : (o.calling y).cfg = y.cfg := rfl
    simp only [commandBody, canSendBody, hg]
    cases classify y.cfg ident with
    | none => exact ignoreCommand_calling o _ hc
    | some x => exact sendStep1_calling o _ hc
  | unknown id rest => exact ignoreCommand_calling o _ hc

/-- STOP's last step, inside SCAN and called directly (R208). -/
theorem stopStep3_calling (cmd : Bool) (hc : y.cmdctx = []) : stopStep3 cmd (o.calling y) = o.around (stopStep3 cmd y) := by
  rw [stopStep3_eq, stopStep3_eq]
  exact cmdReturn_calling o _ (y := { y with
    bst := if y.bst = .started then .configured else y.bst
    outputs := y.outputs ++ [.ctrlStop y.env.stopOk]
    raised := if y.env.stopOk then y.raised else y.raised ++ [.configFailure .peripheral] }) hc

end

/-! ### The handler's further steps -/

section
variable {y : State}

theorem cmdResume_scanReturn {len plen : Nat} {rest : List CmdFrame} (hr : y.running = true) (hc : y.cmdctx = .scanReturn len plen :: rest) :
    cmdResume y = .next (cmdReturn (.outcome (.accept plen)) y) := by
  rw [cmdResume, if_pos hr]
  simp only [hc]
  rw [← hc]

/-- The step of a handler's frame, the frame itself gone (R46). -/
def handlerStep : CmdFrame → State → State
  | .connectStart => connectStartStep
  | .send2 cmd => sendStep2 cmd
  | .stop2 cmd => stopStep2 cmd
  | .stop3 cmd => stopStep3 cmd
  | _ => id

theorem cmdResume_handler {f : CmdFrame} {rest : List CmdFrame} (hr : y.running = true) (hc : y.cmdctx = f :: rest)
    (hf : f.isHandler = true) : cmdResume y = .next (handlerStep f { y with cmdctx := rest }) := by
  rw [cmdResume, if_pos hr, hc]
  cases f with
  | process => cases hf
  | scanReturn len plen => cases hf
  | _ => rfl

theorem handlerStep_keeps (f : CmdFrame) (s : State) : HandlerKeeps s (handlerStep f s) := by
  cases f with
  | connectStart => exact connectStartStep_keeps s
  | send2 cmd => exact sendStep2_keeps cmd s
  | stop2 cmd => exact stopStep2_keeps cmd s
  | stop3 cmd => exact stopStep3_keeps cmd s
  | _ => exact HandlerKeeps.refl s

theorem handlerStep_alive (f : CmdFrame) {s : State} (hb : s.bst ≠ .halted) : (handlerStep f s).bst ≠ .halted := by
  cases f with
  | connectStart => rw [handlerStep, connectStartStep, cmdReturn_bst]; exact startStep_alive hb
  | send2 cmd => rw [handlerStep, sendStep2_eq, cmdReturn_bst]; exact hb
  | stop3 cmd =>
    rw [handlerStep, stopStep3_eq, cmdReturn_bst]
    dsimp only
    split_ifs
    · exact nofun
    · exact hb
  | _ => exact hb

/-- A handler's step inside SCAN is its step in the direct call (R183, R208, R212). -/
theorem handlerStep_calling (o : OpenScan) (f : CmdFrame) (hf : f.isHandler = true) (hc : y.cmdctx = []) :
    handlerStep f (o.calling y) = o.around (handlerStep f y) := by
  cases f with
  | process => cases hf
  | scanReturn len plen => cases hf
  | connectStart =>
    rw [handlerStep, connectStartStep, startStep_calling]
    exact cmdReturn_calling o _ ((startStep_keeps y).2.trans hc)
  | send2 cmd => exact sendStep2_calling o cmd hc
  | stop2 cmd => exact pushFrame_calling o (.stop3 cmd) ((y.emitOutput (.ctrlDisarm y.env.disarmOk)).setArmed false)
  | stop3 cmd => exact stopStep3_calling o cmd hc

/-- A wire command's handler returns `DONE`, but for STOP's second step, which leaves the third (R183, R208, R212). -/
theorem handlerStep_standsAt {f : CmdFrame} (hf : f.isHandler = true) (ho : f.ofCommand = true) (hc : y.cmdctx = []) :
    ((handlerStep f y).cmdctx = [] ∧ (handlerStep f y).ret = .status .done) ∨
      (f = .stop2 true ∧ (handlerStep f y).cmdctx = [.stop3 true]) := by
  have hret {x : State} (hx : x.cmdctx = []) : (cmdReturn (.status .done) x).cmdctx = [] ∧ (cmdReturn (.status .done) x).ret = .status .done := by
    rw [cmdReturn_idle _ hx]; exact ⟨hx, rfl⟩
  cases f with
  | process => cases hf
  | scanReturn len plen => cases hf
  | connectStart => exact .inl (hret ((startStep_keeps y).2.trans hc))
  | send2 cmd => obtain rfl : cmd = true := ho; rw [handlerStep, sendStep2_eq]; exact .inl (hret hc)
  | stop2 cmd => obtain rfl : cmd = true := ho; exact .inr ⟨rfl, congrArg (CmdFrame.stop3 true :: ·) hc⟩
  | stop3 cmd => obtain rfl : cmd = true := ho; rw [handlerStep, stopStep3_eq]; exact .inl (hret hc)

end

/-! ### Running CMDCTX alone -/

section
variable {s t u : State} {n m : Nat}

theorem runCmd_idle (hc : s.cmdctx = []) (n : Nat) : runCmd n s = .next s := by
  cases n with
  | zero => rfl
  | succ n => simp [runCmd, State.cmdIdle, hc]

theorem runCmd_step (hc : s.cmdctx ≠ []) (h : cmdResume s = .next t) (n : Nat) : runCmd (n + 1) s = runCmd n t := by
  simp [runCmd, State.cmdIdle, hc, h]

theorem runCmd_add (h : runCmd n s = .next t) (m : Nat) : runCmd (n + m) s = runCmd m t := by
  induction n generalizing s with
  | zero => cases h; rw [Nat.zero_add]
  | succ n ih =>
    by_cases hc : s.cmdctx = []
    · rw [runCmd_idle hc] at h; cases h
      rw [runCmd_idle hc, runCmd_idle hc]
    · cases e : cmdResume s with
      | next v =>
        rw [runCmd_step hc e] at h
        rw [Nat.add_right_comm, runCmd_step hc e, ih h]
      | fault f => simp [runCmd, State.cmdIdle, hc, e] at h
      | refused r => simp [runCmd, State.cmdIdle, hc, e] at h

/-- A run that is back at IDLE stays there. -/
theorem runCmd_le (h : runCmd n s = .next t) (hc : t.cmdctx = []) (hn : n ≤ m) : runCmd m s = .next t := by
  obtain ⟨k, rfl⟩ := Nat.exists_eq_add_of_le hn
  rw [runCmd_add h, runCmd_idle hc]

theorem runCmd_inv (hi : s.Inv) (n : Nat) : Answers State.Inv (runCmd n s) := by
  induction n generalizing s with
  | zero => exact hi
  | succ n ih =>
    by_cases hc : s.cmdctx = []
    · rw [runCmd_idle hc]; exact hi
    · cases e : cmdResume s with
      | next v => rw [runCmd_step hc e]; exact ih ((cmdResume_inv hi).of_eq e)
      | fault f => simp [runCmd, State.cmdIdle, hc, e, Answers]
      | refused r => simp [runCmd, State.cmdIdle, hc, e, Answers]

/-- One further step of a command, called directly and inside a SCAN. -/
structure HandlerStep (s t : State) : Prop where
  keeps : CallKeeps s t
  busy : s.cmdctx ≠ []
  direct : cmdResume s = .next t
  inScan : ∀ o : OpenScan, cmdResume (o.calling s) = .next (o.around t)

/-- A command's further steps to its end, called directly and inside a SCAN, which they end (R153). -/
structure HandlerRun (n : Nat) (s z : State) : Prop where
  keeps : CallKeeps s z
  idle : z.cmdctx = []
  direct : runCmd n s = .next z
  inScan : ∀ o : OpenScan, runCmd n (o.around s) = .next (o.ended z)

theorem handlerStep_of_frame {f : CmdFrame} (hr : s.running = true) (hc : s.cmdctx = [f]) (hf : f.isHandler = true) :
    HandlerStep s (handlerStep f { s with cmdctx := [] }) where
  keeps := by
    have hk := (handlerStep_keeps f { s with cmdctx := [] }).call rfl (handlerStep_alive f)
    exact ⟨hk.frame, hk.alive⟩
  busy := by rw [hc]; exact nofun
  direct := cmdResume_handler hr hc hf
  inScan o := by
    have hco : (o.calling s).cmdctx = f :: .scanReturn o.len o.plen :: o.below := by simp [OpenScan.calling, hc]
    rw [cmdResume_handler (y := o.calling s) hr hco hf]
    exact congrArg Host.Outcome.next (handlerStep_calling o f hf (y := { s with cmdctx := [] }) rfl)

theorem HandlerRun.done (hc : s.cmdctx = []) : HandlerRun 0 s s :=
  ⟨CallKeeps.refl s, hc, rfl, fun o => congrArg Host.Outcome.next (o.around_idle hc)⟩

theorem HandlerStep.run {z : State} (h : HandlerStep s t) (hz : HandlerRun n t z) : HandlerRun (n + 1) s z where
  keeps := h.keeps.trans hz.keeps
  idle := hz.idle
  direct := by rw [runCmd_step h.busy h.direct, hz.direct]
  inScan o := by
    have hbusy : (o.calling s).cmdctx ≠ [] := by simp [OpenScan.calling]
    rw [OpenScan.around, if_neg h.busy, runCmd_step hbusy (h.inScan o), hz.inScan o]

/-- A wire command's handler frame takes a step that returns `DONE` or leaves STOP's last step. -/
theorem handlerStep_exists {f : CmdFrame} (hr : s.running = true) (hc : s.cmdctx = [f]) (hf : f.isHandler = true) (ho : f.ofCommand = true) :
    ∃ t, HandlerStep s t ∧ ((t.cmdctx = [] ∧ t.ret = .status .done) ∨ (f = .stop2 true ∧ t.cmdctx = [.stop3 true])) :=
  ⟨_, handlerStep_of_frame hr hc hf, handlerStep_standsAt (y := { s with cmdctx := [] }) hf ho rfl⟩

/-- A command ends within two further steps with its status, called directly and inside a SCAN (R46, R153). -/
theorem handlerRun_of_standsAt {st : Status} (hr : s.running = true) (h : s.standsAt st) :
    ∃ n z, n ≤ 2 ∧ HandlerRun n s z ∧ z.ret = .status st := by
  rcases h with ⟨hc, hret⟩ | ⟨f, hc, hf, ho, rfl⟩
  · exact ⟨0, s, by omega, HandlerRun.done hc, hret⟩
  obtain ⟨t, h1, ⟨hi, hret⟩ | ⟨rfl, hstop⟩⟩ := handlerStep_exists hr hc hf ho
  · exact ⟨1, t, by omega, h1.run (HandlerRun.done hi), hret⟩
  obtain ⟨z, h2, ⟨hi, hret⟩ | ⟨hne, _⟩⟩ := handlerStep_exists (h1.keeps.running hr) hstop rfl rfl
  · exact ⟨2, z, le_rfl, h1.run (h2.run (HandlerRun.done hi)), hret⟩
  · cases hne

end

/-! ### SCAN's acceptance -/

/-- The SCAN that has accepted a payload in the state `s` (R153). -/
def State.openScan (s : State) (p : List Byte) : OpenScan :=
  { cmd := s.cmd.writeSeq 0 p, cmdLen := p.length, len := s.cfg.ovh + p.length, plen := p.length, below := s.cmdctx }

/-- DISPATCH's first step on a payload, called directly: the command's first step, or the payload ignored (R180). -/
def payloadBody (p : List Byte) (s : State) : State :=
  match decodeCommand s.cfg p with
  | .error cause => ignoreCommand cause s
  | .ok cmd => commandBody cmd s

/-- The status the dispatcher returns for a payload (R180). -/
def payloadStatus (c : Config) (p : List Byte) : Status :=
  match decodeCommand c p with
  | .error _ => .ignored
  | .ok cmd => commandStatus c cmd

section
variable {s : State} {p : List Byte}

theorem payloadBody_call (hc : s.cmdctx = []) : CallKeeps s (payloadBody p s) := by
  unfold payloadBody
  split
  · exact ignoreCommand_call _ hc
  · exact commandBody_call _ hc

theorem payloadBody_standsAt (hc : s.cmdctx = []) : (payloadBody p s).standsAt (payloadStatus s.cfg p) := by
  unfold payloadBody payloadStatus
  split
  · exact cmdReturn_standsAt .ignored hc
  · exact commandBody_standsAt _ hc

/-- The acceptance makes the payload's first step with the SCAN around it (R153). -/
theorem acceptFrame_eq (hl : s.lock = { owner := none, depth := 0 }) (hp : p.length ≤ s.cfg.cmdMax) :
    acceptFrame p s = .next ((s.openScan p).around (payloadBody p { s with cmdctx := [] })) := by
  have hs : (s.openScan p).calling { s with cmdctx := [] } = { s with
      cmd := s.cmd.writeSeq 0 p, cmdLen := p.length, lock := s.lock.acquire .cmdctx
      cmdctx := .scanReturn (s.cfg.ovh + p.length) p.length :: s.cmdctx } := by rw [hl]; rfl
  rw [acceptFrame_next hp, ← hs]
  unfold payloadBody
  cases decodeCommand s.cfg p with
  | error cause => exact congrArg Host.Outcome.next (ignoreCommand_calling _ cause (y := { s with cmdctx := [] }) rfl)
  | ok cmd => exact congrArg Host.Outcome.next (commandBody_calling _ cmd (y := { s with cmdctx := [] }) rfl)

/-- An accepted frame's handler runs to its end within two further steps, as the payload does when it is dispatched directly (R153, R180). -/
theorem payloadBody_run (hr : s.running = true) (hc : s.cmdctx = []) :
    ∃ n z, n ≤ 2 ∧ HandlerRun n (payloadBody p s) z ∧ CallKeeps s z ∧ z.ret = .status (payloadStatus s.cfg p) := by
  have hk := payloadBody_call (p := p) hc
  obtain ⟨n, z, hn, hz, hret⟩ := handlerRun_of_standsAt (hk.running hr) (payloadBody_standsAt hc)
  exact ⟨n, z, hn, hz, hk.trans hz.keeps, hret⟩

@[simp] theorem OpenScan.around_cmd (o : OpenScan) (y : State) : (o.around y).cmd = o.cmd := by
  unfold OpenScan.around
  split <;> rfl

end

/-- SCAN over a valid frame: the payload lies in CMD at the handler's call, and after the handler's run CMDCTX and LOCK are free again and RD is past the frame (R153). -/
theorem execScan_completes {s : State} {bs p : List Byte} {seq : Nat} (h : s.parserReady) (hu : s.unread = some bs)
    (hs : scanBytes s.cfg bs = .ok (seq, p)) (hp : p.length ≤ s.cfg.cmdMax) :
    ∃ t u, exec .scan s = .next t ∧ t.cmd.readSeq 0 p.length = some p ∧ runCmd 2 t = .next u ∧ u.parserReady ∧ u.cmd = t.cmd ∧
      u.ret = .outcome (.accept p.length) ∧ u.rd = (s.rd + (s.cfg.ovh + p.length)) % s.cfg.cap ∧
      u.ring = s.ring ∧ u.wr = s.wr ∧ u.cfg = s.cfg := by
  obtain ⟨n, z, hn, hz, hk, -⟩ := payloadBody_run (p := p) (s := { s with cmdctx := [] }) h.1.1 rfl
  obtain ⟨⟨hr, hc⟩, hl⟩ := h
  refine ⟨_, (s.openScan p).ended z, (execScan_accept ⟨⟨hr, hc⟩, hl⟩ hu hs).trans (acceptFrame_eq hl hp), ?_,
    runCmd_le (hz.inScan (s.openScan p)) hc hn, ⟨⟨hk.running hr, hc⟩, rfl⟩, (OpenScan.around_cmd _ _).symm, rfl, ?_⟩
  · rw [OpenScan.around_cmd]; exact Memory.readSeq_writeSeq s.cmd 0 p
  · rw [hk.frame]; exact ⟨rfl, rfl, rfl, rfl⟩

/-- Settles O18: FRAME's step is SCAN's acceptance, whose handler's run ends the SCAN. -/
theorem scanAcceptsValidFrame : Obligations.ScanAcceptsValidFrame := by
  unfold Obligations.ScanAcceptsValidFrame
  intro s bs seq p h hu hs hp
  obtain ⟨t, u, hscan, hread, hrun, ⟨⟨-, hc⟩, hl⟩, hcmd, hret, hrd, hring, hwr, -⟩ := execScan_completes h hu hs hp
  have hframe : exec (.frame seq p) s = .next t := by rw [execFrame_accept h hu hs, ← execScan_accept h hu hs, hscan]
  exact ⟨t, u, hscan, hframe, hread, hrun, hc, hrd, hl, hret, hcmd, hring, hwr⟩

/-- A decoded command called directly is the payload's first step (R180). -/
theorem exec_command {s : State} {p : List Byte} {cmd : Command} (h : s.cmdReady) (hd : decodeCommand s.cfg p = .ok cmd) :
    exec cmd.toInstr s = .next (payloadBody p s) := by
  rw [payloadBody, hd]
  cases cmd with
  | connect param => exact whenCmdIdle_ready _ h
  | canSend ident data => exact (whenCmdIdle_ready _ h).trans (by rw [if_pos (decodeCommand_data hd)]; rfl)
  | unknown id rest => exact whenCmdIdle_ready _ h

/-- Where the SCAN ends as it began, at IDLE with LOCK free, it has written only CMD, RD and the result. -/
theorem OpenScan.ended_idle {o : OpenScan} {z : State} (hc : z.cmdctx = o.below) (hl : z.lock = { owner := none, depth := 0 }) :
    o.ended z = { z with
      cmd := o.cmd, cmdLen := o.cmdLen, rd := (z.rd + o.len) % z.cfg.cap, ret := .outcome (.accept o.plen) } := by
  rw [OpenScan.ended, ← hc, ← hl]

/-- Settles O19: the handler's run inside SCAN and the command's own run are one, and an ignored payload's is its first step. -/
theorem scanHasTheCommandsEffect : Obligations.ScanHasTheCommandsEffect := by
  unfold Obligations.ScanHasTheCommandsEffect
  intro s bs seq p h hu hs hp
  obtain ⟨⟨hr, hc⟩, hl⟩ := h
  have hidle : ({ s with cmdctx := [] } : State) = s := by rw [← hc]
  have haccept := acceptFrame_eq hl hp
  rw [hidle] at haccept
  have hscan := (execScan_accept ⟨⟨hr, hc⟩, hl⟩ hu hs).trans haccept
  refine ⟨fun cmd hd => ?_, fun cause hd => ?_⟩
  · obtain ⟨n, z, hn, hz, hk, hret⟩ := payloadBody_run (p := p) hr hc
    refine ⟨_, _, _, z, hscan, runCmd_le (hz.inScan (s.openScan p)) hc hn, exec_command ⟨hr, hc⟩ hd,
      runCmd_le hz.direct hz.idle hn, hz.idle, ?_, ?_⟩
    · rw [hret, payloadStatus, hd]; cases cmd <;> rfl
    · have hzl : z.lock = { owner := none, depth := 0 } := by rw [hk.frame]; exact hl
      have hzr : z.rd = s.rd := by rw [hk.frame]
      have hzc : z.cfg = s.cfg := by rw [hk.frame]
      rw [OpenScan.ended_idle (hz.idle.trans hc.symm) hzl, hzr, hzc]
      rfl
  · have hbody : payloadBody p s = { s with raised := s.raised ++ [.invalidParams cause], ret := .status .ignored } := by
      rw [payloadBody, hd]
      exact cmdReturn_idle _ (s := s.raise (.invalidParams cause)) hc
    have hz : (payloadBody p s).cmdctx = [] := by rw [hbody]; exact hc
    have hzl : (payloadBody p s).lock = { owner := none, depth := 0 } := by rw [hbody]; exact hl
    rw [hscan, OpenScan.around_idle _ hz, OpenScan.ended_idle (hz.trans hc.symm) hzl, hbody]
    rfl

/-! ### PROCESS -/

section
variable {s : State}

theorem execProcess_ready (h : s.parserReady) : exec .process s = processStep [] s := whenParserIdle_ready _ h

theorem processStep_error {bs : List Byte} {o : ScanOutcome} (hu : s.unread = some bs) (h : scanBytes s.cfg bs = .error o) :
    processStep [] s = .next { scanReject o s with cmdctx := if ScanOutcome.isStop o then [] else [.process] } := by
  simp only [processStep, hu, h]

theorem processStep_accept {bs p : List Byte} {seq : Nat} (hu : s.unread = some bs) (h : scanBytes s.cfg bs = .ok (seq, p)) :
    processStep [] s = acceptFrame p { s with cmdctx := [.process] } := by
  simp only [processStep, hu, h]

theorem scanReject_ret (o : ScanOutcome) (s : State) : (scanReject o s).ret = .outcome o := by
  rcases scanReject_cases o s with e | ⟨_, c, e⟩ <;> rw [e]

/-- A SCAN over a PROCESS has that frame below what it has over an empty stack. -/
theorem OpenScan.around_below (o : OpenScan) (y : State) (l : List CmdFrame) :
    { o with below := o.below ++ l }.around y = { o.around y with cmdctx := (o.around y).cmdctx ++ l } := by
  unfold OpenScan.around
  split_ifs
  · rfl
  · simp [OpenScan.calling]

theorem processStep_cmdctx (l rest : List CmdFrame) (s : State) : processStep rest { s with cmdctx := l } = processStep rest s := by
  have hu : State.unread { s with cmdctx := l } = s.unread := rfl
  have hrej (o : ScanOutcome) : scanReject o { s with cmdctx := l } = { scanReject o s with cmdctx := l } := by cases o <;> rfl
  simp only [processStep, hu, hrej]

/-- With PROCESS alone on the stack and LOCK free the next step is its next SCAN (R155). -/
theorem cmdResume_process (hr : s.running = true) (hl : s.lock = { owner := none, depth := 0 }) (hc : s.cmdctx = [.process]) :
    cmdResume s = processStep [] s := by
  rw [cmdResume, if_pos hr, hc]
  exact if_pos (canAcquire_free hl rfl)

/-- So it is the step of a PROCESS called anew (R155). -/
theorem cmdResume_process_eq_exec (hr : s.running = true) (hl : s.lock = { owner := none, depth := 0 }) (hc : s.cmdctx = [.process]) :
    cmdResume s = exec .process { s with cmdctx := [] } := by
  rw [cmdResume_process hr hl hc, execProcess_ready (s := { s with cmdctx := [] }) ⟨⟨hr, rfl⟩, hl⟩]
  exact (processStep_cmdctx [] [] s).symm

end

/-- Settles O21: PROCESS's step is SCAN's with its own frame below, and its further step the same one again. -/
theorem processLoopsOverScan : Obligations.ProcessLoopsOverScan := by
  unfold Obligations.ProcessLoopsOverScan
  refine ⟨fun s bs o h hu hs => ?_, fun s bs seq p h hu hs hp => ?_, fun v => cmdResume_process_eq_exec⟩
  · exact ⟨_, execScan_error h hu hs, scanReject_ret o s, (execProcess_ready h).trans (processStep_error hu hs)⟩
  · have hbelow := OpenScan.around_below (s.openScan p) (payloadBody p { s with cmdctx := [] }) [.process]
    refine ⟨_, (execScan_accept h hu hs).trans (acceptFrame_eq h.2 hp), ?_⟩
    rw [execProcess_ready h, processStep_accept hu hs, acceptFrame_eq (s := { s with cmdctx := [.process] }) h.2 hp, ← hbelow]
    simp only [State.openScan, h.1.2, List.nil_append]

/-- An outcome that accepts nothing is a stop, or a skip over an unread byte (R147 to R152). -/
theorem scanBytes_error_cases {c : Config} {bs : List Byte} {o : ScanOutcome} (h : scanBytes c bs = .error o) :
    ScanOutcome.isStop o = true ∨ (bs ≠ [] ∧ (o = .skipNonTag ∨ o = .skipBadLen ∨ o = .skipBadSum)) := by
  cases bs with
  | nil => cases h; exact .inl rfl
  | cons b bs =>
    simp only [scanBytes] at h
    split_ifs at h <;> cases h
    · exact .inr ⟨nofun, .inl rfl⟩
    · exact .inl rfl
    · exact .inr ⟨nofun, .inr (.inl rfl)⟩
    · exact .inl rfl
    · exact .inr ⟨nofun, .inr (.inr rfl)⟩

section
variable {s t : State}

theorem scanReject_stop {o : ScanOutcome} (h : ScanOutcome.isStop o = true) : scanReject o s = { s with ret := .outcome o } := by
  rcases scanReject_cases o s with e | ⟨hskip, _⟩
  · exact e
  · rw [h] at hskip; cases hskip

theorem scanReject_skip {o : ScanOutcome} (h : o = .skipNonTag ∨ o = .skipBadLen ∨ o = .skipBadSum) :
    ScanOutcome.isStop o = false ∧ (scanReject o s).rd = (s.rd + 1) % s.cfg.cap := by
  rcases h with rfl | rfl | rfl <;> exact ⟨rfl, rfl⟩

theorem scanReject_running (o : ScanOutcome) (s : State) : (scanReject o s).running = s.running := by
  rcases scanReject_cases o s with e | ⟨_, c, e⟩ <;> rw [e] <;> rfl

/-- A state whose RD has passed `n` unread bytes (R166). -/
theorem State.used_of_passed {n : Nat} (h : s.ringOk) (hn : n ≤ s.used) (hrd : t.rd = (s.rd + n) % s.cfg.cap) (hwr : t.wr = s.wr)
    (hg : t.cfg = s.cfg) : t.used = s.used - n := by
  rw [← State.advanceRd_used n h hn]
  exact State.used_congr hrd hwr hg

/-- CMDCTX alone comes back to IDLE within `n` further steps, where the scanner stops (R156). -/
def State.stopsWithin (s : State) (n : Nat) : Prop :=
  ∃ u bs o, runCmd n s = .next u ∧ u.cmdctx = [] ∧ u.unread = some bs ∧ scanBytes u.cfg bs = .error o ∧ ScanOutcome.isStop o = true

theorem State.stopsWithin.after {k n m : Nat} (h : t.stopsWithin n) (hrun : runCmd k s = .next t) (hm : k + n ≤ m) : s.stopsWithin m := by
  obtain ⟨u, bs, o, hend, hidle, hstop⟩ := h
  exact ⟨u, bs, o, runCmd_le ((runCmd_add hrun n).trans hend) hidle hm, hidle, hstop⟩

/-- CMDCTX stands in a PROCESS between two SCANs. -/
structure State.betweenScans (s : State) : Prop where
  running : s.running = true
  stack : s.cmdctx = [.process]

/-- One SCAN of a PROCESS stops it, or within three steps the next SCAN stands before fewer unread bytes: a skip passes one in one step, an acceptance at least the frame's overhead in at most three (R155, R166). -/
theorem process_progress (h : s.Inv) (hf : s.cfg.payloadFits) (hb : s.betweenScans) :
    s.stopsWithin 1 ∨ ∃ k v, k ≤ 3 ∧ runCmd k s = .next v ∧ v.betweenScans ∧ v.cfg = s.cfg ∧ v.used < s.used := by
  obtain ⟨hr, hc⟩ := hb
  obtain ⟨bs, hu⟩ := h.unread
  have hl := h.lock_free (.inr hc)
  have hbusy : s.cmdctx ≠ [] := by rw [hc]; exact nofun
  have hresume := cmdResume_process hr hl hc
  rcases hs : scanBytes s.cfg bs with o | ⟨seq, p⟩
  · rw [processStep_error hu hs] at hresume
    rcases scanBytes_error_cases hs with hstop | ⟨hne, hskip⟩
    · rw [if_pos hstop, scanReject_stop hstop] at hresume
      exact .inl ⟨_, bs, o, runCmd_step hbusy hresume 0, rfl, hu, hs, hstop⟩
    · obtain ⟨hgo, hrd⟩ := scanReject_skip (s := s) hskip
      have hk := (scanReject_keeps o s).frame
      have hpos : 1 ≤ s.used := by rw [← State.unread_length hu]; exact List.length_pos_iff.2 hne
      have hpassed := State.used_of_passed (t := scanReject o s) h.ringOk hpos hrd (by rw [hk]) (by rw [hk])
      rw [if_neg (by rw [hgo]; exact nofun)] at hresume
      exact .inr ⟨1, _, by omega, runCmd_step hbusy hresume 0, ⟨(scanReject_running o s).trans hr, rfl⟩, by rw [hk],
        hpassed.trans_lt (by omega)⟩
  · obtain ⟨hlen, hcap⟩ := scanBytes_length hs
    rw [State.unread_length hu] at hlen
    rw [processStep_accept hu hs,
      acceptFrame_eq (s := { s with cmdctx := [.process] }) hl (payload_le_cmdMax hf hcap)] at hresume
    obtain ⟨k, z, hk, hz, hcall, -⟩ := payloadBody_run (p := p) (s := { s with cmdctx := [] }) hr rfl
    obtain ⟨hzrd, hzwr, hzcfg⟩ : z.rd = s.rd ∧ z.wr = s.wr ∧ z.cfg = s.cfg := by rw [hcall.frame]; exact ⟨rfl, rfl, rfl⟩
    have hpassed := State.used_of_passed (t := OpenScan.ended (State.openScan { s with cmdctx := [.process] } p) z) h.ringOk hlen
      (by simp only [OpenScan.ended, State.openScan, hzrd, hzcfg]) hzwr hzcfg
    have hovh : 0 < s.cfg.ovh := by unfold Config.ovh; omega
    exact .inr ⟨k + 1, _, by omega, (runCmd_step hbusy hresume k).trans (hz.inScan _), ⟨hcall.running hr, rfl⟩, hzcfg,
      hpassed.trans_lt (by omega)⟩

/-- A PROCESS comes to a stop, by induction on the unread bytes (R156). -/
theorem process_stops (h : s.Inv) (hf : s.cfg.payloadFits) (hb : s.betweenScans) : s.stopsWithin (3 * s.used + 1) := by
  induction hn : s.used using Nat.strong_induction_on generalizing s with
  | _ n ih =>
  subst hn
  rcases process_progress h hf hb with hstop | ⟨k, v, hk, hrun, hv, hg, hused⟩
  · exact hstop.after (k := 0) rfl (by omega)
  · have hvi : v.Inv := (runCmd_inv h k).of_eq hrun
    exact (ih v.used hused hvi (by rwa [hg]) hv rfl).after hrun (by omega)

end

/-- Settles O22: a PROCESS called is a further step of the one on the stack, whose run reaches a stop. -/
theorem processTerminates : Obligations.ProcessTerminates := by
  unfold Obligations.ProcessTerminates
  intro s h hf hready
  obtain ⟨⟨hr, hc⟩, hl⟩ := hready
  have hself : ({ s with cmdctx := [] } : State) = s := by rw [← hc]
  have hresume := cmdResume_process_eq_exec (s := { s with cmdctx := [.process] }) hr hl rfl
  rw [hself] at hresume
  obtain ⟨u, bs, o, hrun, hidle, hstop⟩ :=
    process_stops (s := { s with cmdctx := [.process] }) (h.inProcess (.inl hc) _ (.inr rfl)) hf ⟨hr, rfl⟩
  cases he : exec .process s with
  | next t =>
    rw [he] at hresume
    have hused : State.used { s with cmdctx := [.process] } = s.used := rfl
    rw [hused, runCmd_step (List.cons_ne_nil _ _) hresume] at hrun
    exact ⟨t, u, bs, o, rfl, runCmd_le hrun hidle (by omega), hidle, hstop⟩
  | fault f => exact absurd he (exec_ne_fault h hf .process f)
  | refused e => simp [runCmd, State.cmdIdle, hresume, he] at hrun

/-! ### RECEIVE in both profiles -/

section
variable {s : State}

theorem State.appendAll_ringOk (bs : List Byte) (h : s.ringOk) : (s.appendAll bs).ringOk := by
  induction bs generalizing s with
  | nil => exact h
  | cons b bs ih => exact ih (State.appendRing_ringOk b h)

theorem receiveOverwrite_ringOk (bs : List Byte) (h : s.ringOk) : (receiveOverwrite bs s).ringOk := by
  induction bs generalizing s with
  | nil => exact h
  | cons b bs ih => exact ih (overwriteByte_ringOk b h)

theorem receiveBody_ringOk (bs : List Byte) (h : s.ringOk) : (receiveBody bs s).ringOk := by
  unfold receiveBody
  split
  · rw [receiveReject_eq bs 0 h]
    split_ifs <;> exact State.appendAll_ringOk _ h
  · exact receiveOverwrite_ringOk bs h

/-- Bytes that fit are appended whole in either profile (R141, R142). -/
theorem receiveBody_unread {bs u : List Byte} (h : s.ringOk) (hcap : 2 ≤ s.cfg.cap) (hu : s.unread = some u)
    (hfit : u.length + bs.length ≤ s.cfg.cap - 1) : (receiveBody bs s).unread = some (u ++ bs) := by
  have hlen := State.unread_length hu
  have hfree : bs.length ≤ s.free := by unfold State.free; omega
  unfold receiveBody
  split
  · rw [receiveReject_eq bs 0 h, if_pos hfree]
    exact State.appendAll_unread h hu hfree
  · rw [(receiveOverwrite_latest bs h hcap hu).1, Nat.sub_eq_zero_of_le hfit, List.drop_zero]

/-- RECEIVE leaves CMDCTX and LOCK as it found them. -/
theorem receiveBody_parserReady (bs : List Byte) (h : s.parserReady) : (receiveBody bs s).parserReady := by
  rw [receiveBody_frame]
  exact h

end

/-- Settles O23: the frame is appended whole, the scanner reads it back, and its handler's run passes exactly its bytes. -/
theorem frameRoundTripsThroughTheRing : Obligations.FrameRoundTripsThroughTheRing := by
  unfold Obligations.FrameRoundTripsThroughTheRing
  intro s seq p h hcaller hi hempty hsizes hseq hfit hp
  obtain ⟨hovh, hfield, -⟩ := hsizes
  have hcap : 2 ≤ s.cfg.cap := by unfold Config.ovh at hovh; omega
  have hok : s.ringOk := ⟨hi.1, hi.2.1⟩
  have hu : s.unread = some [] := by rw [State.unread, hempty]; rfl
  have hlen := frameBytes_length s.cfg seq p
  have hu : s.unread = some [] := by rw [State.unread, hempty]; rfl
  have htg := receiveBody_cfg (frameBytes s.cfg seq p) s
  have htu := receiveBody_unread (bs := frameBytes s.cfg seq p) hok hcap hu (by rw [List.length_nil]; omega)
  rw [List.nil_append] at htu
  have hs := scanBytes_frameBytes hfield hseq hfit []
  rw [List.append_nil] at hs
  have hready : s.receiveReady := h.receive (taskAgent_iff.2 hcaller)
  obtain ⟨u, v, hscan, hread, hrun, hvready, -, hret, hrd, -, hwr, hg⟩ :=
    execScan_completes (receiveBody_parserReady _ h) htu (by rwa [htg]) (by rwa [htg])
  have hused : v.used = 0 := by
    have htused := State.unread_length htu
    rw [hlen] at htused
    rw [State.used_of_passed (receiveBody_ringOk _ hok) (by rw [htg]; omega) hrd hwr hg, htg]
    omega
  exact ⟨_, u, v, execReceive_ready _ hready, hscan, hread, hrun, hret, hused, execScan_empty hvready hused⟩

/-! ### RECEIVE's frame -/

section
variable {s : State}

/-- A place that none of `n + 1` bytes takes is taken by none of the last `n`. -/
theorem places_tail {wr n cap a : Nat} (h : ∀ k, k < n + 1 → a ≠ (wr + k) % cap) : ∀ k, k < n → a ≠ ((wr + 1) % cap + k) % cap := by
  intro k hk
  rw [wr_next]
  exact h (k + 1) (by omega)

/-- Nor does the first byte take it. -/
theorem read_write_off_places (m : Memory) {wr n cap a : Nat} (b : Byte) (hw : wr < cap) (h : ∀ k, k < n + 1 → a ≠ (wr + k) % cap) :
    (m.write wr b).read a = m.read a := by
  have h0 := h 0 (by omega)
  rw [Nat.add_zero, Nat.mod_eq_of_lt hw] at h0
  exact Memory.read_write_ne m b h0

theorem receiveReject_read (bs : List Byte) (i : Nat) {a : Nat} (hw : s.wr < s.cfg.cap)
    (ha : ∀ k, k < bs.length → a ≠ (s.wr + k) % s.cfg.cap) : (receiveReject bs i s).ring.read a = s.ring.read a := by
  induction bs generalizing i s with
  | nil => rfl
  | cons b bs ih =>
    unfold receiveReject
    split_ifs
    · rfl
    · rw [ih (i + 1) (Nat.mod_lt _ (Nat.zero_lt_of_lt hw)) (places_tail ha)]
      exact read_write_off_places s.ring b hw ha

theorem receiveOverwrite_read (bs : List Byte) {a : Nat} (hw : s.wr < s.cfg.cap)
    (ha : ∀ k, k < bs.length → a ≠ (s.wr + k) % s.cfg.cap) : (receiveOverwrite bs s).ring.read a = s.ring.read a := by
  induction bs generalizing s with
  | nil => rfl
  | cons b bs ih =>
    have hwr := overwriteByte_wr b s
    have hg := overwriteByte_cfg b s
    rw [receiveOverwrite, ih (by rw [hwr, hg]; exact Nat.mod_lt _ (Nat.zero_lt_of_lt hw)) (by rw [hwr, hg]; exact places_tail ha),
      overwriteByte_ring]
    exact read_write_off_places s.ring b hw ha

theorem receiveBody_read (bs : List Byte) {a : Nat} (hw : s.wr < s.cfg.cap) (ha : ∀ k, k < bs.length → a ≠ (s.wr + k) % s.cfg.cap) :
    (receiveBody bs s).ring.read a = s.ring.read a := by
  unfold receiveBody
  split
  · exact receiveReject_read bs 0 hw ha
  · exact receiveOverwrite_read bs hw ha

theorem receiveBody_reject_rd (bs : List Byte) (h : s.cfg.fullPolicy = .reject) : (receiveBody bs s).rd = s.rd := by
  simp only [receiveBody, h]
  rw [receiveReject_frame]

/-! Where CMDCTX holds LOCK, it stands inside a SCAN whose end is at most two steps away (R28, R153). -/

theorem scanTail_head {l : List CmdFrame} (h : scanTail s l) : ∃ len plen below, l = .scanReturn len plen :: below := by
  obtain ⟨plen, _, rfl | rfl⟩ := scanTail_iff.1 h <;> exact ⟨_, _, _, rfl⟩

/-- The SCAN that a state with LOCK held by CMDCTX is in, and the direct call's stack inside it. -/
theorem State.Inv.exists_scan (h : s.Inv) (hl : s.lock.owner = some .cmdctx) :
    ∃ (o : OpenScan) (l : List CmdFrame), s = o.calling { s with cmdctx := l } ∧
      (l = [] ∨ ∃ f, l = [f] ∧ f.isHandler = true ∧ f.ofCommand = true) := by
  have hscan {l base : List CmdFrame} (hb : s.baseOk base) (hc : s.cmdctx = l ++ base) :
      ∃ o : OpenScan, s = o.calling { s with cmdctx := l } := by
    rcases hb with ⟨_, hfree⟩ | ⟨ht, hheld⟩
    · rw [hfree] at hl; cases hl
    · obtain ⟨len, plen, below, rfl⟩ := scanTail_head ht
      exact ⟨⟨s.cmd, s.cmdLen, len, plen, below⟩, by simp only [OpenScan.calling]; rw [← hc, ← hheld]⟩
  rcases State.stackOk_iff.1 h.stack with hb | ⟨_, hfree⟩ | ⟨f, rest, hc, hf, hb, ho⟩
  · obtain ⟨o, e⟩ := hscan (l := []) hb rfl
    exact ⟨o, [], e, .inl rfl⟩
  · rw [hfree] at hl; cases hl
  · obtain ⟨o, e⟩ := hscan (l := [f]) hb hc
    have hne : rest ≠ [] := by
      rintro rfl
      rcases hb with ⟨_, hfree⟩ | ⟨ht, _⟩
      · rw [hfree] at hl; cases hl
      · exact ht
    exact ⟨o, [f], e, .inr ⟨f, rfl, hf, ho.resolve_left hne⟩⟩

/-- At the SCAN's return its next step ends it (R153). -/
theorem cmdResume_calling_idle {y : State} (o : OpenScan) (hr : y.running = true) (hc : y.cmdctx = []) :
    cmdResume (o.calling y) = .next (o.ended y) := by
  have hco : (o.calling y).cmdctx = .scanReturn o.len o.plen :: o.below := by simp [OpenScan.calling, hc]
  rw [cmdResume_scanReturn (y := o.calling y) hr hco, cmdReturn_scan _ hco]
  rfl

/-- CMDCTX frees LOCK within two further steps (R28, R312). -/
theorem State.Inv.frees_lock (h : s.Inv) (hr : s.running = true) (hl : s.lock.owner = some .cmdctx) :
    ∃ n u, n ≤ 2 ∧ runCmd n s = .next u ∧ u.env = s.env ∧ u.running = true ∧ u.lock = { owner := none, depth := 0 } := by
  obtain ⟨o, l, e, hstack⟩ := h.exists_scan hl
  have hbusy : (o.calling { s with cmdctx := l }).cmdctx ≠ [] := by simp [OpenScan.calling]
  rw [e]
  rcases hstack with rfl | ⟨f, rfl, hf, ho⟩
  · have hstep := cmdResume_calling_idle (y := { s with cmdctx := [] }) o hr rfl
    exact ⟨1, _, by omega, runCmd_step hbusy hstep 0, rfl, hr, rfl⟩
  · obtain ⟨n, z, hn, hz, -⟩ := handlerRun_of_standsAt (s := { s with cmdctx := [f] }) hr (.inr ⟨f, rfl, hf, ho, rfl⟩)
    exact ⟨n, o.ended z, hn, hz.inScan o, by rw [hz.keeps.frame]; rfl, hz.keeps.running hr, rfl⟩

end

/-- Settles O14: the loops' writes for the frame, the end of the SCAN under way for the waiting call. -/
theorem receiveFrame : Obligations.ReceiveFrame := by
  unfold Obligations.ReceiveFrame
  refine ⟨fun s t b h hw => ?_, fun s b hr => ⟨execReceive_waits b hr, fun hc hl hi => ?_, fun hc hin => ?_⟩⟩
  · rcases execReceive_cases b s with e | ⟨_, e⟩ | ⟨_, e⟩ <;> rw [exec, e] at h <;> cases h
    · exact ⟨rfl, fun _ => rfl, fun _ _ => rfl⟩
    · exact ⟨receiveBody_frame b s, receiveBody_reject_rd b, fun a ha => receiveBody_read b hw ha⟩
  · obtain ⟨n, u, hn, hrun, henv, hur, hul⟩ := hi.frees_lock hr hl
    have hbridge : u.env.caller = .bridge := by rw [henv, hc]
    refine ⟨n, u, hn, hrun, henv, hur, canAcquire_free hul (by rw [hbridge]; rfl), fun hcmd => ?_⟩
    rw [hbridge] at hcmd; cases hcmd
  · simp [exec, execReceive, hr, hc, hin]

/-! ### The fetch pointer -/

section
variable {s : State}

theorem taskTxStep2_rd (pending : Notif) (e : Option CanMessage) (s : State) : (taskTxStep2 pending e s).rd = s.rd := by
  cases e <;> rfl

theorem taskTxStep1_rd (pending : Notif) (s : State) : (taskTxStep1 pending s).rd = s.rd := by
  unfold taskTxStep1
  split_ifs
  · exact taskTxStep2_rd _ _ _
  · rfl

theorem EgressKeeps.rd {t : State} (h : EgressKeeps s t) : t.rd = s.rd := by rw [h.frame]

theorem execTaskTx_rd (s : State) : Answers (fun t => t.rd = s.rd) (execTaskTx s) := by
  unfold execTaskTx
  split_ifs
  · split
    · exact taskTxStep1_rd _ s
    · exact taskTxStep2_rd _ _ s
    all_goals exact rfl
  · exact rfl

theorem taskRxStep_rd (s : State) : Answers (fun t => t.rd = s.rd) (taskRxStep s) :=
  answers_iff.2 fun _ e => ((taskRxStep_keeps s).of_eq e).rd

theorem bridgeTurn_rd (s : State) : Answers (fun t => t.rd = s.rd) (bridgeTurn s) := by
  have hserved : (if s.notif.txReady then taskTxStep1 s.notif (taskWaitStep s) else taskWaitStep s).rd = s.rd := by
    split_ifs
    · exact taskTxStep1_rd _ _
    · rfl
  unfold bridgeTurn
  dsimp only
  split
  · exact answers_iff.2 fun t e => ((taskRxStep_rd _).of_eq e).trans hserved
  · exact hserved

theorem execTaskWait_rd (s : State) : Answers (fun t => t.rd = s.rd) (execTaskWait s) := by
  unfold execTaskWait
  split_ifs
  · exact bridgeTurn_rd s
  · exact rfl
  · exact rfl

theorem execTaskRx_rd (s : State) : Answers (fun t => t.rd = s.rd) (execTaskRx s) := by
  rcases execTaskRx_cases s with e | ⟨_, ⟨_, _, e⟩ | e⟩ <;> rw [e]
  · exact rfl
  · exact taskRxStep_rd s
  · exact answers_iff.2 fun _ e => ((reportStep_keeps s).of_eq e).rd

end

/-- Settles O24: the frames of the command, the interrupt and the bridge task's operations keep RD. -/
theorem onlyParserOperationsMoveReadIndex : Obligations.OnlyParserOperationsMoveReadIndex := by
  unfold Obligations.OnlyParserOperationsMoveReadIndex
  intro s t i h
  have hcmd (hi : commandContext i = true) (hscan : i ≠ .scan) (hproc : i ≠ .process) (hframe : ∀ seq p, i ≠ .frame seq p) :
      t.rd = s.rd := ((exec_command_keeps hi hscan hproc hframe).of_eq h).2.1
  have hirq (hi : instrContext i = .interrupt) : t.rd = s.rd := by rw [((exec_interruptKeeps hi).of_eq h).frame]
  have hegress (hk : Answers (EgressKeeps s) (exec i s)) : t.rd = s.rd := (hk.of_eq h).rd
  cases i with
  | scan => exact .inr (.inl rfl)
  | process => exact .inr (.inr (.inl rfl))
  | frame seq p => exact .inr (.inr (.inr (.inl ⟨seq, p, rfl⟩)))
  | receive bs => exact .inr (.inr (.inr (.inr (.inl ⟨bs, rfl⟩))))
  | ingress bs => exact .inr (.inr (.inr (.inr (.inr (.inl ⟨bs, rfl⟩)))))
  | init ok => exact .inr (.inr (.inr (.inr (.inr (.inr ⟨ok, rfl⟩)))))
  | connect | canSend | unknown | dispatch | configure | start | stop | send => exact .inl (hcmd rfl nofun nofun nofun)
  | rxIsr | txeIsr | transportReady | keepAlive => exact .inl (hirq rfl)
  | reportClassicStd | reportClassicExt | reportFdStd | reportFdExt => exact .inl (hegress (emitPayload_keeps _ s))
  | reportFirstClassicStd | reportFirstClassicExt | reportFirstFdStd | reportFirstFdExt | reportCont =>
    exact .inl (hegress (emitFragment_keeps _ s))
  | report m => exact .inl (hegress (execReport_keeps m s))
  | emit pkt a => exact .inl (hegress (execEmit_keeps pkt a s))
  | formatFrame call => exact .inl (hegress (execFormatFrame_keeps call s))
  | taskWait => exact .inl ((execTaskWait_rd s).of_eq h)
  | taskTx => exact .inl ((execTaskTx_rd s).of_eq h)
  | taskRx => exact .inl ((execTaskRx_rd s).of_eq h)

/-! ### INGRESS and FORMAT_FRAME -/

section
variable {s : State}

/-- INGRESS leaves PROCESS as CMDCTX's next step, after RECEIVE of what the read hands on (R168). -/
theorem execIngress_ready (transfer : List Byte) (h : s.parserReady) :
    exec (.ingress transfer) s = .next { receiveBody (ingressBytes s.cfg transfer) s with cmdctx := [.process] } := by
  have hc := (receiveBody_parserReady (ingressBytes s.cfg transfer) h).1.2
  rw [exec, execIngress, whenParserIdle_ready _ h, State.pushFrame, hc]

theorem ingressBytes_cons (c : Config) (k : Byte) (t : List Byte) :
    ingressBytes c (k :: t) = if c.lenPrefix then t.take k.toNat else k :: t := rfl

theorem ingressBytes_nil (c : Config) : ingressBytes c [] = [] := by
  unfold ingressBytes
  split <;> rfl

/-- BRIDGE stands between two fragments (R260). -/
theorem betweenFragments_iff : s.betweenFragments = true ↔
    (∃ pkt p ps, s.bridge = .emit pkt (p :: ps)) ∨ ∃ ps, s.bridge = .second ps := by
  unfold State.betweenFragments
  cases s.bridge with
  | emit pkt left => cases left <;> simp
  | _ => simp

/-- FORMAT_FRAME is taken where BRIDGE is not between two fragments and the operand's frame fits (R160). -/
theorem execFormatFrame_fits {buf : List Byte} {n : Nat} (hr : s.running = true) (hb : s.betweenFragments = false)
    (hfit : s.cfg.frameFits buf.length n) : exec (.formatFrame { buf := buf, n := n }) s = .next { s with
      buf := formatBuffer s.cfg s.seq buf n, seq := (s.seq + 1) % s.cfg.seqMod, ret := .length (s.cfg.ovh + n) } := by
  rw [exec, execFormatFrame, hr, hb]
  exact if_pos hfit

end

/-- Settles O15: the read's bytes are RECEIVE's, and the PROCESS left on the stack is a PROCESS called. -/
theorem ingressReceivesThenProcesses : Obligations.IngressReceivesThenProcesses := by
  unfold Obligations.IngressReceivesThenProcesses
  intro s k t h hcaller
  have hready : s.receiveReady := h.receive (taskAgent_iff.2 hcaller)
  have hbytes := execIngress_ready (k :: t) h
  have hnil := execIngress_ready [] h
  rw [ingressBytes_cons] at hbytes
  rw [ingressBytes_nil] at hnil
  refine ⟨_, _, execReceive_ready _ hready, hbytes, execReceive_ready _ hready, hnil, ?_⟩
  obtain ⟨⟨hr, _⟩, hl⟩ := receiveBody_parserReady (if s.cfg.lenPrefix then t.take k.toNat else k :: t) h
  exact cmdResume_process_eq_exec (s := { receiveBody _ s with cmdctx := [.process] }) hr hl rfl

/-- Settles O25: the frame around the buffer's payload is its body and the negated sum, and the wait is BRIDGE's marker's. -/
theorem formatFrameWritesFrame : Obligations.FormatFrameWritesFrame := by
  unfold Obligations.FormatFrameWritesFrame
  intro s buf n hr
  refine ⟨fun hb hsize hfield => ?_, fun hb => ?_⟩
  · have hovh : s.cfg.ovh = 2 + 2 * s.cfg.w.bytes := rfl
    have hslice : (slice buf (1 + 2 * s.cfg.w.bytes) n).length = n := slice_length (by omega)
    have hbody : frameBody s.cfg s.seq (slice buf (1 + 2 * s.cfg.w.bytes) n) =
        Config.tag :: (leBytes s.cfg.w.bytes (s.cfg.ovh + n) ++ leBytes s.cfg.w.bytes s.seq ++ slice buf (1 + 2 * s.cfg.w.bytes) n) := by
      rw [frameBody, hslice]
    refine ⟨_, rfl, by simp [hslice]; omega, ?_⟩
    have hbetween : s.betweenFragments = false := Bool.eq_false_iff.2 fun e => hb (betweenFragments_iff.1 e)
    rw [execFormatFrame_fits hr hbetween ⟨hsize, hfield⟩, formatBuffer, frameBytes_eq, hbody, zero_sub_eq_ofNat]
    rfl
  · rw [exec, execFormatFrame, betweenFragments_iff.2 hb, Bool.or_true]
    rfl

end Sys2Proof.Machine
end

section
/-! PROOFS. The family 41_commands: what DISPATCH ignores and routes, unknown commands, CONNECT 1 to its end, and CAN_SEND with its identifier classification. -/

namespace Sys2Proof.Machine

/-! ### Payloads that are no command -/

section
variable {c : Config} {rest : List Byte}

/-- CONNECT has exactly one parameter byte (R183). -/
theorem decodeCommand_connect_mismatch (h : rest.length ≠ 1) : decodeCommand c (0x01 :: rest) = .error .lengthMismatch := by
  rcases rest with _ | ⟨p, _ | ⟨b, rest⟩⟩
  · rfl
  · exact absurd rfl h
  · rfl

/-- CAN_SEND's first test, the length range (R186). -/
theorem decodeCommand_canSend_range (h : rest.length + 1 < 2 + c.idw.bytes ∨ rest.length + 1 > 2 + c.idw.bytes + 8) :
    decodeCommand c (0x10 :: rest) = .error .lengthMismatch := if_pos h

/-- CAN_SEND's further tests, by the DLC byte behind the identifier (R186). -/
theorem decodeCommand_canSend_dlc {dlc : Byte} (hmax : rest.length + 1 ≤ 2 + c.idw.bytes + 8) (hdlc : rest[c.idw.bytes]? = some dlc) :
    decodeCommand c (0x10 :: rest) =
      if dlc.toNat > 8 then .error .dlcTooLarge
      else if rest.length + 1 ≠ 2 + c.idw.bytes + dlc.toNat then .error .lengthMismatch
      else .ok (.canSend (BitVec.ofNat 32 (unLE (rest.take c.idw.bytes))) (rest.drop (c.idw.bytes + 1))) := by
  obtain ⟨hlt, rfl⟩ := List.getElem?_eq_some_iff.1 hdlc
  change decodeCanSend c rest = _
  rw [decodeCanSend, if_neg (by omega), List.drop_eq_getElem_cons hlt]

end

/-! ### DISPATCH -/

/-- A command that was ignored for a cause (R181, R182). -/
def State.ignored (s : State) (cause : InvalidCause) : State :=
  { s with raised := s.raised ++ [.invalidParams cause], ret := .status .ignored }

section
variable {s : State} {n : Nat} {p : List Byte}

theorem State.clear_cmdctx (hc : s.cmdctx = []) : ({ s with cmdctx := [] } : State) = s := by rw [← hc]

theorem ignoreCommand_idle (cause : InvalidCause) (hc : s.cmdctx = []) : ignoreCommand cause s = s.ignored cause :=
  cmdReturn_idle _ (s := s.raise (.invalidParams cause)) hc

theorem payload_length (hp : s.payload n = some p) : p.length = n := by
  unfold State.payload at hp
  split at hp
  · exact Memory.readSeq_length hp
  · cases hp

theorem payload_zero (s : State) : s.payload 0 = some [] := if_pos (Nat.zero_le _)

/-- DISPATCH of a payload that was written is the payload's first step (R180). -/
theorem exec_dispatch (h : s.cmdReady) (hp : s.payload n = some p) : exec (.dispatch n) s = .next (payloadBody p s) := by
  rw [exec, execDispatch, whenCmdIdle_ready _ h]
  simp only [dispatchBody, hp, payloadBody]
  cases decodeCommand s.cfg p <;> rfl

theorem exec_dispatch_invalid {cause : InvalidCause} (h : s.cmdReady) (hp : s.payload n = some p)
    (hd : decodeCommand s.cfg p = .error cause) : exec (.dispatch n) s = .next (s.ignored cause) := by
  rw [exec_dispatch h hp, payloadBody, hd, ← ignoreCommand_idle cause h.2]

/-- The first step of an unknown command's payload is all of it (R190). -/
theorem payloadBody_unknown {id : Byte} {rest : List Byte} (hc : s.cmdctx = []) (h1 : id ≠ 0x01) (h2 : id ≠ 0x10) :
    payloadBody (id :: rest) s = s.ignored .unknownCommand := by
  rw [payloadBody, decodeCommand_unknown h1 h2]
  exact ignoreCommand_idle _ hc

theorem exec_dispatch_unknown {id : Byte} {rest : List Byte} (h : s.cmdReady) (hp : s.payload n = some (id :: rest))
    (h1 : id ≠ 0x01) (h2 : id ≠ 0x10) : exec (.dispatch n) s = .next (s.ignored .unknownCommand) := by
  rw [exec_dispatch h hp, payloadBody_unknown h.2 h1 h2]

/-- DISPATCH of a command's payload is the command called directly (R180). -/
theorem exec_dispatch_command {cmd : Command} (h : s.cmdReady) (hp : s.payload n = some p) (hd : decodeCommand s.cfg p = .ok cmd) :
    ∃ t, exec (.dispatch n) s = .next t ∧ exec cmd.toInstr s = .next t :=
  ⟨_, exec_dispatch h hp, exec_command h hd⟩

/-- DISPATCH reads no byte past the payload SCAN copied (R26). -/
theorem exec_dispatch_past (h : s.cmdReady) (hn : s.cmdLen < n) : exec (.dispatch n) s = .refused .unwrittenRead := by
  have hp : s.payload n = none := if_neg (Nat.not_le.2 hn)
  rw [exec, execDispatch, whenCmdIdle_ready _ h, dispatchBody, hp]

/-- An ignored command inside SCAN: SCAN's own writes, the event and the result (R153). -/
theorem exec_scan_ignored {bs : List Byte} {seq : Nat} {cause : InvalidCause} (h : s.parserReady) (hu : s.unread = some bs)
    (hs : scanBytes s.cfg bs = .ok (seq, p)) (hp : p.length ≤ s.cfg.cmdMax) (hbody : payloadBody p s = s.ignored cause) :
    exec .scan s = .next { s with
      cmd := s.cmd.writeSeq 0 p, cmdLen := p.length, rd := (s.rd + (s.cfg.ovh + p.length)) % s.cfg.cap
      raised := s.raised ++ [.invalidParams cause], ret := .outcome (.accept p.length) } := by
  have ⟨⟨_, hc⟩, hl⟩ := h
  rw [execScan_accept h hu hs, acceptFrame_eq hl hp, State.clear_cmdctx hc, hbody,
    OpenScan.around_idle (y := s.ignored cause) _ hc, OpenScan.ended_idle (z := s.ignored cause) rfl hl]
  rfl

end

/-- Settles O26: each clause is the decoder's test that fails, and DISPATCH ignores what it fails on. -/
theorem dispatchIgnoresInvalidPayloads : Obligations.DispatchIgnoresInvalidPayloads := by
  unfold Obligations.DispatchIgnoresInvalidPayloads
  intro s n h
  refine ⟨exec_dispatch_invalid h (payload_zero s) rfl, fun rest hp hn => ?connect, fun rest hp hn => ?range,
    fun rest dlc hp _ hmax hdlc hbig => ?dlc, fun rest dlc hp _ hmax hdlc hle hn => ?count,
    fun id rest hp h1 h2 => exec_dispatch_unknown h hp h1 h2⟩
  all_goals
    have hlen : rest.length + 1 = n := payload_length hp
    refine exec_dispatch_invalid h hp ?_
  case connect => exact decodeCommand_connect_mismatch (by omega)
  case range => exact decodeCommand_canSend_range (by omega)
  case dlc => rw [decodeCommand_canSend_dlc (by omega) hdlc, if_pos hbig]
  case count => rw [decodeCommand_canSend_dlc (by omega) hdlc, if_neg (by omega), if_pos (by omega)]

/-- Settles O27: the payload decodes to its command, whose first step DISPATCH takes. -/
theorem dispatchRoutesCommands : Obligations.DispatchRoutesCommands := by
  unfold Obligations.DispatchRoutesCommands
  intro s h
  refine ⟨fun param hp => ?_, fun ident data hident hdata hp => ?_, fun n hn => exec_dispatch_past h hn⟩
  · exact exec_dispatch_command (cmd := .connect param) h hp rfl
  · exact exec_dispatch_command (cmd := .canSend ident data) h hp (decodeCommand_canSendBytes hident hdata)

/-- Settles O28: an unknown command is ignored wherever it is called, and inside SCAN that ends the SCAN. -/
theorem unknownCommandIsNoOp : Obligations.UnknownCommandIsNoOp := by
  unfold Obligations.UnknownCommandIsNoOp
  refine ⟨fun s id rest h => ⟨?_, fun n hp h1 h2 => exec_dispatch_unknown h hp h1 h2⟩, fun s bs seq id rest h hu hs hlen h1 h2 => ?_⟩
  · rw [exec, execUnknown, whenCmdIdle_ready _ h, unknownBody, ignoreCommand_idle _ h.2, State.ignored]
  · exact exec_scan_ignored h hu hs hlen (payloadBody_unknown h.1.2 h1 h2)

/-! ### CONNECT 1 -/

/-- The controller has accepted a timing pair (R201). -/
def State.configured (s : State) (t : TimingPair) : State :=
  { s with timing := some t, bst := .configured, outputs := s.outputs ++ [.ctrlConfigure t true] }

section
variable {s x : State} {arb data : BitrateName} {a d : BitrateTuple}

/-- CONFIGURE sees the controller idle where it answers so and the bridge is not STARTED (R301). -/
theorem ctrlIdle_iff : s.ctrlIdle = true ↔ s.env.ctrlIdle = true ∧ s.bst ≠ .started := by simp [State.ctrlIdle]

theorem configureStep_notIdle (hi : s.ctrlIdle = false) :
    configureStep arb data s = ({ s with raised := s.raised ++ [.configFailure .notIdle] }, false) := by
  rw [configureStep, hi]
  rfl

theorem configureStep_missing (hi : s.ctrlIdle = true)
    (hrom : romLookup s.cfg.bitrateRom arb = none ∨ romLookup s.cfg.bitrateRom data = none) :
    configureStep arb data s = ({ s with raised := s.raised ++ [.configFailure .badTimingEntry] }, false) := by
  rw [configureStep, if_pos hi]
  rcases hrom with h | h
  · rw [h]; rfl
  · rw [h]; cases romLookup s.cfg.bitrateRom arb <;> rfl

/-- With both names in the table the controller's answer decides (R201). -/
theorem configureStep_called (hi : s.ctrlIdle = true) (ha : romLookup s.cfg.bitrateRom arb = some a)
    (hd : romLookup s.cfg.bitrateRom data = some d) :
    configureStep arb data s =
      if s.env.configureOk then (s.configured { arbitration := a, dataPhase := d }, true)
      else ({ s with
        outputs := s.outputs ++ [.ctrlConfigure { arbitration := a, dataPhase := d } false]
        raised := s.raised ++ [.configFailure .peripheral] }, false) := by
  simp only [configureStep, if_pos hi, ha, hd]
  cases s.env.configureOk <;> rfl

theorem startStep_accepted (hb : s.bst = .configured) (hs : s.env.startOk = true) (ha : s.env.armOk = true) :
    startStep s = ({ s with
      bst := .started, irqEn := true, notifArmed := true, outputs := s.outputs ++ [.ctrlStart true, .ctrlArm true] }, true) := by
  rw [startStep, if_pos hb, hs, ha]
  simp [State.emitOutput, State.setArmed, State.setIrqEn]

/-- START's calls end at the one that is refused (R205). -/
theorem startStep_refused (hb : s.bst = .configured) (h : s.env.startOk = false ∨ s.env.armOk = false) :
    startStep s = ({ s with
      outputs := s.outputs ++ [.ctrlStart s.env.startOk] ++ (if s.env.startOk then [.ctrlArm false] else [])
      raised := s.raised ++ [.configFailure .peripheral] }, false) := by
  rw [startStep, if_pos hb]
  cases hs : s.env.startOk with
  | false => simp [State.emitOutput, State.raise]
  | true =>
    rw [h.resolve_left (by simp [hs])]
    simp [State.emitOutput, State.raise]

/-- CONNECT 1 where CONFIGURE fails returns at once (R183). -/
theorem exec_connect_fails (h : s.cmdReady) (hconf : configureStep s.cfg.defaultArb s.cfg.defaultData s = (x, false)) :
    exec (.connect 0x01) s = .next { x with ret := .status .done } := by
  have hc : x.cmdctx = [] := by
    have hk := (configureStep_keeps s.cfg.defaultArb s.cfg.defaultData s).2
    rw [hconf] at hk
    exact hk.trans h.2
  rw [exec, execConnect, whenCmdIdle_ready _ h, connectBody, if_pos rfl, hconf, ← cmdReturn_idle _ hc]
  rfl

/-- CONNECT 1 where CONFIGURE succeeds leaves START as its further step (R183). -/
theorem exec_connect_configures (h : s.cmdReady) (hi : s.ctrlIdle = true) (ha : romLookup s.cfg.bitrateRom s.cfg.defaultArb = some a)
    (hd : romLookup s.cfg.bitrateRom s.cfg.defaultData = some d) (hok : s.env.configureOk = true) :
    exec (.connect 0x01) s = .next { s.configured { arbitration := a, dataPhase := d } with cmdctx := [.connectStart] } := by
  rw [exec, execConnect, whenCmdIdle_ready _ h, connectBody, if_pos rfl, configureStep_called hi ha hd, if_pos hok, if_pos rfl,
    State.pushFrame, ← h.2]
  rfl

/-- CONNECT's further step is START, and its result is not used (R183). -/
theorem cmdResume_connectStart {ok : Bool} (hr : s.running = true) (hc : s.cmdctx = [])
    (hstart : startStep s = (x, ok)) : cmdResume { s with cmdctx := [.connectStart] } = .next { x with ret := .status .done } := by
  have hx : x.cmdctx = [] := by
    have hk := (startStep_keeps s).2
    rw [hstart] at hk
    exact hk.trans hc
  rw [cmdResume_handler (y := { s with cmdctx := [.connectStart] }) hr rfl rfl]
  simp only [State.clear_cmdctx hc, handlerStep, connectStartStep, hstart, cmdReturn_idle _ hx]

theorem configured_running (hr : s.running = true) (t : TimingPair) : (s.configured t).running = true :=
  State.running_iff.2 ⟨(State.running_iff.1 hr).1, nofun⟩

end

/-- Settles O29: CONFIGURE's success leaves START, which every call accepts. -/
theorem connectStartsTheBridge : Obligations.ConnectStartsTheBridge := by
  unfold Obligations.ConnectStartsTheBridge
  intro s a d h hb hi hconf hstart harm ha hd
  refine ⟨_, exec_connect_configures h (ctrlIdle_iff.2 ⟨hi, hb⟩) ha hd hconf, rfl, ?_⟩
  rw [cmdResume_connectStart (configured_running h.1 _) h.2 (startStep_accepted rfl hstart harm)]
  simp [State.configured]

/-- Settles O30: a failing CONFIGURE ends the command, and a failing START leaves what CONFIGURE applied. -/
theorem connectFailsWithoutStarting : Obligations.ConnectFailsWithoutStarting := by
  unfold Obligations.ConnectFailsWithoutStarting
  intro s h
  refine ⟨fun hbusy => ?_, fun hb hi hrom => ?_, fun a d hb hi ha hd => ⟨fun hconf => ?_, fun hconf hfail => ?_⟩⟩
  · have hidle : s.ctrlIdle = false := by
      rcases hbusy with e | e <;> simp [State.ctrlIdle, e]
    exact exec_connect_fails h (configureStep_notIdle hidle)
  · exact exec_connect_fails h (configureStep_missing (ctrlIdle_iff.2 ⟨hi, hb⟩) hrom)
  · have hstep := configureStep_called (ctrlIdle_iff.2 ⟨hi, hb⟩) ha hd
    rw [hconf] at hstep
    exact exec_connect_fails h hstep
  · refine ⟨_, exec_connect_configures h (ctrlIdle_iff.2 ⟨hi, hb⟩) ha hd hconf, ?_⟩
    rw [cmdResume_connectStart (configured_running h.1 _) h.2 (startStep_refused rfl hfail), State.configured,
      List.append_assoc s.outputs]
    rfl

/-! ### CAN_SEND -/

/-- TXQ has one message more (R36). -/
def State.queued (s : State) (m : CanMessage) : State := { s with txq := s.txq ++ [m] }

section
variable {s : State} {ident : BitVec 32} {data : List Byte}

/-- CAN_SEND of at most eight data bytes is its body (R186). -/
theorem exec_canSend (h : s.cmdReady) (hdata : data.length ≤ 8) : exec (.canSend ident data) s = .next (canSendBody ident data s) := by
  rw [exec, execCanSend, whenCmdIdle_ready _ h, if_pos hdata]

theorem exec_canSend_accepted {ty : IdType} {id : BitVec 29} (h : s.cmdReady) (hdata : data.length ≤ 8)
    (hcl : classify s.cfg ident = some (ty, id)) :
    exec (.canSend ident data) s = .next (sendStep1 (canSendMessage ty id data) true s) := by
  rw [exec_canSend h hdata, canSendBody, hcl]

theorem exec_canSend_dropped (h : s.cmdReady) (hdata : data.length ≤ 8) (hcl : classify s.cfg ident = none) :
    exec (.canSend ident data) s = .next (s.ignored .idOutOfRange) := by
  rw [exec_canSend h hdata, canSendBody, hcl, ← ignoreCommand_idle _ h.2]

/-- A wire command's SEND step S2 at IDLE (R212). -/
theorem sendStep2_idle (hc : s.cmdctx = []) : sendStep2 true s = { s with
    notif := { s.notif with txReady := s.notif.txReady || !s.txInflight }, ret := .status .done } := by
  rw [sendStep2_eq]
  exact cmdReturn_idle _ (s := { s with notif := { s.notif with txReady := s.notif.txReady || !s.txInflight } }) hc

/-- CAN_SEND's further step is SEND step S2 (R186, R212). -/
theorem cmdResume_send2 (h : s.cmdReady) : cmdResume { s with cmdctx := [.send2 true] } = .next { s with
    notif := { s.notif with txReady := s.notif.txReady || !s.txInflight }, ret := .status .done } := by
  rw [cmdResume_handler (y := { s with cmdctx := [.send2 true] }) h.1 rfl rfl]
  simp only [State.clear_cmdctx h.2, handlerStep, sendStep2_idle h.2]

/-! A SEND's first step, by the room in TXQ and by ATOMIC_OPS (R212). -/

theorem sendStep1_atomic (m : CanMessage) (cmd : Bool) (hroom : s.txq.length < Config.txqCap) (ha : s.cfg.atomicOps = true) :
    sendStep1 m cmd s = sendStep2 cmd (s.queued m) := by
  rw [sendStep1, pushBounded, if_pos hroom]
  exact if_pos ha

theorem sendStep1_split (m : CanMessage) (cmd : Bool) (hroom : s.txq.length < Config.txqCap) (ha : s.cfg.atomicOps = false) :
    sendStep1 m cmd s = (s.queued m).pushFrame (.send2 cmd) := by
  rw [sendStep1, pushBounded, if_pos hroom]
  exact if_neg (Bool.eq_false_iff.1 ha)

theorem sendStep1_full (m : CanMessage) (hfull : Config.txqCap ≤ s.txq.length) :
    sendStep1 m true s = cmdReturn (.status .done) (s.raise (.backpressure .txQueueFull)) := by
  rw [sendStep1, pushBounded, if_neg (Nat.not_lt.2 hfull)]
  rfl

end

/-- Settles O32: CAN_SEND is SEND of the message it builds, and SEND's two steps push it and signal. -/
theorem canSendQueuesOneMessage : Obligations.CanSendQueuesOneMessage := by
  unfold Obligations.CanSendQueuesOneMessage
  intro s ident data ty id h hdata hcl
  have hsend := exec_canSend_accepted h hdata hcl
  have hqueued : (s.queued (canSendMessage ty id data)).cmdReady := h
  refine ⟨fun hroom ha => ?_, fun hroom ha => ⟨?_, cmdResume_send2 hqueued⟩, fun hfull => ?_⟩
  · rw [hsend, sendStep1_atomic _ true hroom ha, sendStep2_idle hqueued.2]
    rfl
  · rw [hsend, sendStep1_split _ true hroom ha, State.pushFrame, hqueued.2]
    rfl
  · rw [hsend, sendStep1_full _ hfull, cmdReturn_idle _ (s := s.raise (.backpressure .txQueueFull)) h.2]
    rfl

/-! ### The identifier classification -/

section
variable {c : Config} {ident : BitVec 32}

theorem classify_standard (h : ident.toNat ≤ 0x7FF) : classify c ident = some (.standard, BitVec.ofNat 29 ident.toNat) := by
  unfold classify
  cases c.idw <;> exact if_pos h

theorem classify_extended (hw : c.idw = .four) (hlo : 0x7FF < ident.toNat) (hhi : ident.toNat ≤ 0x1FFFFFFF) :
    classify c ident = some (.extended, BitVec.ofNat 29 ident.toNat) := by
  rw [classify, hw]
  exact (if_neg (Nat.not_le.2 hlo)).trans (if_pos hhi)

/-- Above its width's range an identifier is dropped (R187). -/
theorem classify_drop (hp : c.idRangePolicy = .drop)
    (h : (c.idw = .two ∧ 0x7FF < ident.toNat) ∨ (c.idw = .four ∧ 0x1FFFFFFF < ident.toNat)) : classify c ident = none := by
  rcases h with ⟨hw, h⟩ | ⟨hw, h⟩ <;> rw [classify, hw, hp]
  · exact if_neg (Nat.not_le.2 h)
  · exact (if_neg (by omega)).trans (if_neg (Nat.not_le.2 h))

theorem classify_mask_two (hp : c.idRangePolicy = .mask) (hw : c.idw = .two) (h : 0x7FF < ident.toNat) :
    classify c ident = some (.standard, BitVec.ofNat 29 (ident.toNat % 2 ^ 11)) := by
  rw [classify, hw, hp]
  exact if_neg (Nat.not_le.2 h)

theorem classify_mask_four (hp : c.idRangePolicy = .mask) (hw : c.idw = .four) (h : 0x1FFFFFFF < ident.toNat) :
    classify c ident = some (.extended, BitVec.ofNat 29 (ident.toNat % 2 ^ 29)) := by
  rw [classify, hw, hp]
  exact (if_neg (by omega)).trans (if_neg (Nat.not_le.2 h))

end

/-- Settles O33: each range has its classification, whose value fits 29 bits, and an identifier without one is ignored. -/
theorem identifierClassification : Obligations.IdentifierClassification := by
  unfold Obligations.IdentifierClassification
  intro c ident
  refine ⟨fun h => ⟨_, classify_standard h, Nat.mod_eq_of_lt (by omega)⟩, fun hw h hp => classify_drop hp (.inl ⟨hw, h⟩),
    fun hw h hp => ⟨_, classify_mask_two hp hw h, Nat.mod_eq_of_lt (by omega)⟩,
    fun hw hlo hhi => ⟨_, classify_extended hw hlo hhi, Nat.mod_eq_of_lt (by omega)⟩, fun hw h hp => classify_drop hp (.inr ⟨hw, h⟩),
    fun hw h hp => ⟨_, classify_mask_four hp hw h, Nat.mod_eq_of_lt (by omega)⟩, ?_⟩
  rintro s data h rfl hdata hcl
  exact exec_canSend_dropped h hdata hcl

end Sys2Proof.Machine
end

section
/-! PROOFS. The family 42_bridge_ops: CONFIGURE, START and STOP with every answer of the controller, SEND's two steps, the two CAN interrupts, and the bridge task's TASK_WAIT, TASK_TX and TASK_RX. -/

namespace Sys2Proof.Machine

/-! ### STOP -/

section
variable {s : State} {param : Byte}

theorem exec_connect_stops (h : s.cmdReady) (hp : param ≠ 0x01) : exec (.connect param) s = .next (stopStep1 true s) := by
  rw [exec, execConnect, whenCmdIdle_ready _ h, connectBody, if_neg hp]

theorem exec_stop (h : s.cmdReady) : exec .stop s = .next (stopStep1 false s) := by
  rw [exec, execStop, whenCmdIdle_ready _ h]

/-- STOP's second step disarms the notifications and leaves the third (R208). -/
theorem cmdResume_stop2 (cmd : Bool) (hr : s.running = true) (hc : s.cmdctx = [.stop2 cmd]) : cmdResume s = .next { s with
    notifArmed := false, cmdctx := [.stop3 cmd], outputs := s.outputs ++ [.ctrlDisarm s.env.disarmOk] } := by
  rw [cmdResume_handler hr hc rfl, handlerStep, stopStep2_eq]

/-- STOP's third step halts the controller and returns (R208). -/
theorem cmdResume_stop3 (cmd : Bool) (hr : s.running = true) (hc : s.cmdctx = [.stop3 cmd]) : cmdResume s = .next { s with
    cmdctx := []
    bst := if s.bst = .started then .configured else s.bst
    outputs := s.outputs ++ [.ctrlStop s.env.stopOk]
    raised := if s.env.stopOk then s.raised else s.raised ++ [.configFailure .peripheral]
    ret := opResult cmd s.env.stopOk } := by
  rw [cmdResume_handler hr hc rfl, handlerStep, stopStep3_eq]
  rfl

end

/-- Settles O31: CONNECT's and STOP's first step is the same, and each step leaves the next on CMDCTX's stack. -/
theorem stopTakesThreeOrderedSteps : Obligations.StopTakesThreeOrderedSteps := by
  unfold Obligations.StopTakesThreeOrderedSteps
  intro s cmd param h hp r1 r2
  have hfirst : stopStep1 cmd s = r1 := by rw [stopStep1_eq, h.2]
  refine ⟨?_, cmdResume_stop2 (s := r1) cmd h.1 rfl, ?_⟩
  · rw [← hfirst]
    cases cmd with
    | true => exact exec_connect_stops h hp
    | false => exact exec_stop h
  · rw [cmdResume_stop3 (s := r2) cmd h.1 rfl, ← h.2]
    simp only [r2, List.append_assoc]
    rfl

/-! ### CONFIGURE and START -/

section
variable {s x : State} {ok : Bool}

/-- CONFIGURE returns its own result to a direct caller (R201). -/
theorem exec_configure {arb data : BitrateName} (h : s.cmdReady) (hstep : configureStep arb data s = (x, ok)) :
    exec (.configure arb data) s = .next { x with ret := .bool ok } := by
  have hc : (configureStep arb data s).1.cmdctx = [] := (configureStep_keeps arb data s).2.trans h.2
  rw [exec, execConfigure, whenCmdIdle_ready _ h, cmdReturn_idle _ hc, hstep]

/-- START returns its own result to a direct caller (R205). -/
theorem exec_start (h : s.cmdReady) (hstep : startStep s = (x, ok)) : exec .start s = .next { x with ret := .bool ok } := by
  have hc : (startStep s).1.cmdctx = [] := (startStep_keeps s).2.trans h.2
  rw [exec, execStart, whenCmdIdle_ready _ h, cmdReturn_idle _ hc, hstep]

theorem startStep_badState (hb : s.bst ≠ .configured) :
    startStep s = ({ s with raised := s.raised ++ [.configFailure .badState] }, false) := if_neg hb

end

/-- Settles O35: idleness, the names and the controller's answer decide CONFIGURE in this order. -/
theorem configureAppliesTiming : Obligations.ConfigureAppliesTiming := by
  unfold Obligations.ConfigureAppliesTiming
  intro s arb data h
  refine ⟨fun hbusy => ?_, fun hb hi hrom => ?_, fun a d hb hi ha hd => ?_⟩
  · have hidle : s.ctrlIdle = false := by
      rcases hbusy with e | e <;> simp [State.ctrlIdle, e]
    exact exec_configure h (configureStep_notIdle hidle)
  · exact exec_configure h (configureStep_missing (ctrlIdle_iff.2 ⟨hi, hb⟩) hrom)
  · have hcalled := configureStep_called (ctrlIdle_iff.2 ⟨hi, hb⟩) ha hd
    exact ⟨fun hok => exec_configure h (hcalled.trans (if_pos hok)),
      fun hno => exec_configure h (hcalled.trans (if_neg (Bool.eq_false_iff.1 hno)))⟩

/-- Settles O36: START's calls are made in CONFIGURED only, and end at the one that is refused. -/
theorem startEnablesInterrupts : Obligations.StartEnablesInterrupts := by
  unfold Obligations.StartEnablesInterrupts
  intro s h
  refine ⟨fun hb => exec_start h (startStep_badState hb), fun hb hs ha => exec_start h (startStep_accepted hb hs ha),
    fun hb hs ha => ?_, fun hb hs => ?_⟩
  · have harm := startStep_refused hb (.inr ha)
    rw [hs, if_pos rfl, List.append_assoc] at harm
    exact exec_start h harm
  · have hstart := startStep_refused hb (.inl hs)
    rw [hs, if_neg Bool.false_ne_true, List.append_nil] at hstart
    exact exec_start h hstart

/-! ### SEND -/

section
variable {s : State} {m : CanMessage}

theorem exec_send (h : s.cmdReady) (hm : m.wf) : exec (.send m) s = .next (sendStep1 m false s) := by
  rw [exec, execSend, whenCmdIdle_ready _ h, if_pos hm]

/-- SEND step S2 called directly: the signal unless a transmission is in flight, and true (R212). -/
theorem sendStep2_direct (hc : s.cmdctx = []) : sendStep2 false s = { s with
    notif := { s.notif with txReady := s.notif.txReady || !s.txInflight }, ret := .bool true } := by
  rw [sendStep2_eq]
  exact cmdReturn_idle _ (s := { s with notif := { s.notif with txReady := s.notif.txReady || !s.txInflight } }) hc

theorem cmdResume_send2_direct (h : s.cmdReady) : cmdResume { s with cmdctx := [.send2 false] } = .next { s with
    notif := { s.notif with txReady := s.notif.txReady || !s.txInflight }, ret := .bool true } := by
  rw [cmdResume_handler (y := { s with cmdctx := [.send2 false] }) h.1 rfl rfl]
  simp only [State.clear_cmdctx h.2, handlerStep, sendStep2_direct h.2]

/-- SEND called directly into a full queue returns false (R212). -/
theorem sendStep1_full_direct (hfull : Config.txqCap ≤ s.txq.length) (hc : s.cmdctx = []) :
    sendStep1 m false s = { s with ret := .bool false } := by
  rw [sendStep1, pushBounded, if_neg (Nat.not_lt.2 hfull)]
  exact cmdReturn_idle _ hc

end

/-- Settles O37: SEND's first step by the room in TXQ and by ATOMIC_OPS, then its second. -/
theorem sendPushesThenSignals : Obligations.SendPushesThenSignals := by
  unfold Obligations.SendPushesThenSignals
  intro s m h hm
  have hqueued : (s.queued m).cmdReady := h
  refine ⟨fun hroom ha => ?_, fun hroom ha => ⟨?_, cmdResume_send2_direct hqueued⟩, fun hfull => ?_⟩
  · rw [exec_send h hm, sendStep1_atomic m false hroom ha, sendStep2_direct hqueued.2]
    rfl
  · rw [exec_send h hm, sendStep1_split m false hroom ha, State.pushFrame, hqueued.2]
    rfl
  · rw [exec_send h hm, sendStep1_full_direct hfull h.2]

/-! ### The CAN interrupts -/

section
variable {s : State} {k : Res}

/-- A CAN interrupt that is not enabled leaves the state as it is (R291). -/
theorem takeInterrupt_disabled (h : ¬ (s.irqEn = true ∧ s.notifArmed = true)) : takeInterrupt s k = .next s := by
  rcases takeInterrupt_cases (s := s) (k := k) with e | ⟨⟨_, hready⟩, _⟩
  · exact e
  · exact absurd hready h

end

/-- Settles O38: the handler pushes where RXQ has room, and signals either way. -/
theorem rxInterruptQueuesOrDrops : Obligations.RxInterruptQueuesOrDrops := by
  unfold Obligations.RxInterruptQueuesOrDrops
  intro s m h hm
  rw [exec, execRxIsr, takeInterrupt_ready _ h, if_pos hm, rxHandler]
  rcases pushBounded_cases Config.rxqCap s.rxq m with ⟨hroom, e⟩ | ⟨hfull, e⟩
  · have hlt : s.rxq.length < 3 := hroom
    rw [e, if_pos hlt, if_pos hlt]
    rfl
  · have hge : ¬ s.rxq.length < 3 := Nat.not_lt.2 hfull
    rw [e, if_neg hge, if_neg hge]
    rfl

/-- Settles O39: the handler is the signal, and nothing is taken while the interrupts are disabled. -/
theorem txEmptyInterruptSignals : Obligations.TxEmptyInterruptSignals := by
  unfold Obligations.TxEmptyInterruptSignals
  exact ⟨fun _ h => takeInterrupt_ready _ h, fun _ h => takeInterrupt_disabled h⟩

/-- Settles O40: neither interrupt is taken. -/
theorem disabledInterruptsAreNotTaken : Obligations.DisabledInterruptsAreNotTaken := by
  unfold Obligations.DisabledInterruptsAreNotTaken
  intro s m h
  have hoff : ¬ (s.irqEn = true ∧ s.notifArmed = true) := by
    rcases h with e | e <;> simp [e]
  exact ⟨takeInterrupt_disabled hoff, takeInterrupt_disabled hoff⟩

/-! ### TASK_WAIT and TASK_TX -/

section
variable {s : State} {pending : Notif}

/-- TASK_TX at its first marker (R231). -/
theorem exec_taskTx_tx1 (hr : s.running = true) (hb : s.bridge = .tx1 pending) : exec .taskTx s = .next (taskTxStep1 pending s) := by
  rw [exec, execTaskTx, if_pos hr, hb]

/-- TASK_TX at its second marker (R231). -/
theorem exec_taskTx_tx2 {e : Option CanMessage} (hr : s.running = true) (hb : s.bridge = .tx2 pending e) :
    exec .taskTx s = .next (taskTxStep2 pending e s) := by
  rw [exec, execTaskTx, if_pos hr, hb]

/-- TASK_RX at its own marker pops and begins the REPORT (R236). -/
theorem exec_taskRx_rx (hr : s.running = true) (hb : s.bridge = .rx pending) : exec .taskRx s = taskRxStep s := by
  rw [exec, execTaskRx, if_pos hr, hb]

/-- T1 alone pops and leaves T2 with what it popped (R231). -/
theorem taskTxStep1_split (ha : s.cfg.atomicOps = false) :
    taskTxStep1 pending s = { s with txq := (popOldest s.txq).2, bridge := .tx2 pending (popOldest s.txq).1 } :=
  if_neg (Bool.eq_false_iff.1 ha)

/-- T1 takes T2 along with ATOMIC_OPS on (R46, R231). -/
theorem taskTxStep1_atomic (ha : s.cfg.atomicOps = true) :
    taskTxStep1 pending s = taskTxStep2 pending (popOldest s.txq).1 { s with
      txq := (popOldest s.txq).2, bridge := .tx2 pending (popOldest s.txq).1 } := if_pos ha

/-- With ATOMIC_OPS on TASK_TX ends where it serves RX or waits (R231). -/
theorem taskTxStep1_bridge (ha : s.cfg.atomicOps = true) : (taskTxStep1 pending s).bridge = afterTx pending := by
  rw [taskTxStep1_atomic ha]
  cases (popOldest s.txq).1 <;> rfl

theorem taskTxStep1_running (pending : Notif) (s : State) : (taskTxStep1 pending s).running = s.running := by
  unfold taskTxStep1
  split
  · cases (popOldest s.txq).1 <;> rfl
  · rfl

/-- TASK_WAIT is taken at WAIT with a bit set (R228). -/
theorem exec_taskWait_taken (hr : s.running = true) (hb : s.bridge = .wait) (hn : s.notif.isEmpty = false) :
    exec .taskWait s = if s.cfg.atomicOps then bridgeTurn s else .next (taskWaitStep s) := by
  rw [exec, execTaskWait, hr, hb, hn]
  rfl

/-- TASK_WAIT is blocked away from WAIT or with no bit set (R228, U13). -/
theorem exec_taskWait_blocked (h : s.bridge ≠ .wait ∨ s.notif.isEmpty = true) : exec .taskWait s = .next s := by
  rw [exec, execTaskWait]
  refine if_neg ?_
  rcases h with hb | hn
  · simp [hb]
  · simp [hn]

theorem taskWaitStep_tx (ht : s.notif.txReady = true) :
    taskWaitStep s = { s with notif := Notif.clear, bridge := .tx1 s.notif } := by
  rw [taskWaitStep, if_pos ht]
  rfl

theorem taskWaitStep_rx (ht : s.notif.txReady = false) :
    taskWaitStep s = { s with notif := Notif.clear, bridge := .rx s.notif } := by
  rw [taskWaitStep, if_neg (Bool.eq_false_iff.1 ht)]
  rfl

/-- TASK_RX after a TASK_TX in the same step, where its bit was taken too (R231, R238). -/
theorem exec_taskRx_afterTx (hr : s.running = true) (ha : s.cfg.atomicOps = true) (hrx : pending.rxAvail = true) :
    exec .taskRx (taskTxStep1 pending s) = taskRxStep (taskTxStep1 pending s) := by
  refine exec_taskRx_rx (pending := pending) ((taskTxStep1_running pending s).trans hr) ?_
  rw [taskTxStep1_bridge ha, afterTx, if_pos hrx]

end

/-- Settles O43: T1 by ATOMIC_OPS and by what TXQ holds, T2 by what was popped. -/
theorem taskTxPopsAndSubmits : Obligations.TaskTxPopsAndSubmits := by
  unfold Obligations.TaskTxPopsAndSubmits
  intro s pending hr
  refine ⟨fun e hb => exec_taskTx_tx2 hr hb, fun hb => exec_taskTx_tx2 hr hb, fun e q hb hq => ?_, fun hb hq => ?_⟩
  · refine ⟨fun ha => ?_, fun ha => ?_⟩
    · rw [exec_taskTx_tx1 hr hb, taskTxStep1_split ha, hq]
      rfl
    · rw [exec_taskTx_tx1 hr hb, taskTxStep1_atomic ha, hq]
      rfl
  · refine ⟨fun ha => ?_, fun ha => ?_⟩
    · rw [exec_taskTx_tx1 hr hb, taskTxStep1_split ha, hq, popOldest, ← hq]
    · rw [exec_taskTx_tx1 hr hb, taskTxStep1_atomic ha, hq, popOldest, ← hq]
      rfl

/-- Settles O42: TASK_WAIT's marker is the operation that follows, and with ATOMIC_OPS on that operation's step is taken along. -/
theorem taskWaitTakesAndClears : Obligations.TaskWaitTakesAndClears := by
  unfold Obligations.TaskWaitTakesAndClears
  intro s hr
  refine ⟨fun hb ht => ?_, fun hb ht hrx => ?_, fun hblocked => ?_⟩
  · have hwait := exec_taskWait_taken hr hb (by simp [Notif.isEmpty, ht])
    refine ⟨fun ha => ?_, fun ha => ?_⟩
    · rw [hwait, ha, taskWaitStep_tx ht]
      rfl
    · refine ⟨_, exec_taskTx_tx1 (s := { s with notif := Notif.clear, bridge := .tx1 s.notif }) hr rfl, ?_⟩
      rw [hwait, ha, if_pos rfl, bridgeTurn, if_pos ht, taskWaitStep_tx ht]
      split_ifs with hrx
      · exact (exec_taskRx_afterTx (s := { s with notif := Notif.clear, bridge := .tx1 s.notif }) hr ha hrx).symm
      · rfl
  · have hwait := exec_taskWait_taken hr hb (by simp [Notif.isEmpty, hrx])
    refine ⟨fun ha => ?_, fun ha => ?_⟩
    · rw [hwait, ha, taskWaitStep_rx ht]
      rfl
    · rw [hwait, ha, if_pos rfl, bridgeTurn, if_neg (Bool.eq_false_iff.1 ht), if_pos hrx, taskWaitStep_rx ht]
      exact (exec_taskRx_rx (s := { s with notif := Notif.clear, bridge := .rx s.notif }) hr rfl).symm
  · exact exec_taskWait_blocked (hblocked.imp id fun ⟨ht, hrx⟩ => by simp [Notif.isEmpty, ht, hrx])

/-! ### TASK_RX -/

section
variable {s : State} {pending : Notif} {c : Config} {m : CanMessage} {q : List CanMessage} {ps : List (List Byte)}

/-- REPORT has payloads where one packet or two hold the message (R252, R260). -/
theorem reportPayloads_exists (hm : m.wf) (h : m.nbytes ≤ c.cap1 ∨ c.fragMode = .twoPacket) : ∃ ps, reportPayloads c m = .ok ps := by
  rcases reportPayloads_cases c m with ⟨hbad, _⟩ | ⟨_, _, e⟩ | ⟨_, _, _, e⟩ | ⟨_, hlong, hrefuse, _⟩
  · exact absurd hm hbad
  · exact ⟨_, e⟩
  · exact ⟨_, e⟩
  · rcases h with hn | hf
    · omega
    · cases hf.symm.trans hrefuse

/-- A message that fits one packet is reported by the payload R252 lays out (R115, R253). -/
theorem reportPayloads_one (hm : m.wf) (hn : m.nbytes ≤ c.cap1) : reportPayloads c m =
    .ok [[0x20 + (if m.msgFormat = .fd then 2 else 0) + (if m.idType = .extended then 1 else 0)] ++
      leBytes 4 m.identifier.toNat ++ [BitVec.ofNat 8 m.nbytes] ++ m.payload] := by
  rcases reportPayloads_cases c m with ⟨hbad, _⟩ | ⟨_, _, e⟩ | ⟨_, hlong, _⟩ | ⟨_, hlong, _⟩
  · exact absurd hm hbad
  · rw [e, reportBytes, reportIdent_toNat, reportId_eq]
    simp
  · omega
  · omega

/-- TASK_RX pops, and REPORT of what it popped follows, in the same step with ATOMIC_OPS on (R236, R46). -/
theorem exec_taskRx_pops (hr : s.running = true) (hb : s.bridge = .rx pending) (hq : s.rxq = m :: q)
    (hps : reportPayloads s.cfg m = .ok ps) : exec .taskRx s =
      if s.cfg.atomicOps then reportAtOnce s.env.transportAvailable ps { s with rxq := q }
      else .next { s with rxq := q, bridge := .format ps } := by
  rw [exec_taskRx_rx hr hb, taskRxStep, hq]
  simp only [popOldest, hps]
  split_ifs with ha
  · exact if_pos ha
  · rfl

/-- TASK_RX at the `format` marker formats the next payload (R236, R256). -/
theorem exec_taskRx_format {p : List Byte} {left : List (List Byte)} (hr : s.running = true) (hb : s.bridge = .format (p :: left)) :
    exec .taskRx s = formatNext p left s := by
  rw [exec, execTaskRx, if_pos hr, hb]
  simp only [reportStep, hb, formatLeft]

/-- REPORT called with a message is begun with the message's payloads (R252). -/
theorem exec_report_begins (h : s.bridgeReady) (hps : reportPayloads s.cfg m = .ok ps) : exec (.report m) s = beginReport ps s := by
  rw [exec, execReport, whenBridgeIdle_ready _ h, hps]

/-- REPORT in one step succeeds where each payload fits a packet (R46, R255). -/
theorem reportAtOnce_next (a : Bool) (h : ∀ p ∈ ps, s.cfg.frameFits s.cfg.pkt p.length) : ∃ t, reportAtOnce a ps s = .next t := by
  rcases reportAtOnce_cases a ps s with ⟨t, e, _⟩ | ⟨_, p, hp, hbad⟩
  · exact ⟨t, e⟩
  · exact absurd (h p hp) hbad

/-- The step after TASK_RX's pop is the first step of REPORT called with what was popped (R236, R252). -/
theorem taskRx_formats_as_report (hr : s.running = true) (hs : s.cfg.sizesOk) (ha : s.cfg.atomicOps = false)
    (hps : reportPayloads s.cfg m = .ok ps) : ∃ u, exec .taskRx { s with bridge := .format ps } = .next u ∧
      exec (.report m) { s with bridge := .wait } = .next u := by
  obtain ⟨hne, hfit⟩ := reportPayloads_fit hs hps
  obtain ⟨p, left, rfl⟩ := List.exists_cons_of_ne_nil hne
  have hp : s.cfg.frameFits s.cfg.pkt p.length := hfit p List.mem_cons_self
  refine ⟨_, (exec_taskRx_format (s := { s with bridge := .format (p :: left) }) hr rfl).trans (formatNext_fits left hp), ?_⟩
  rw [exec_report_begins (s := { s with bridge := .wait }) ⟨hr, rfl⟩ hps, beginReport, if_neg (Bool.eq_false_iff.1 ha)]
  exact formatNext_fits left hp

/-- With ATOMIC_OPS on, REPORT called with a message is the REPORT TASK_RX takes along (R46, R236). -/
theorem exec_report_atOnce (hr : s.running = true) (ha : s.cfg.atomicOps = true) (hps : reportPayloads s.cfg m = .ok ps) :
    exec (.report m) { s with bridge := .wait } = reportAtOnce s.env.transportAvailable ps s := by
  rw [exec_report_begins (s := { s with bridge := .wait }) ⟨hr, rfl⟩ hps, ← reportAtOnce_setBridge _ ps s .wait]
  exact if_pos ha

/-- REPORT of a single payload in one step (R46, R256, R265). -/
theorem reportAtOnce_one {p : List Byte} (hp : s.cfg.frameFits s.cfg.pkt p.length) :
    reportAtOnce s.env.transportAvailable [p] s = .next (s.emitted p) := by
  rw [reportAtOnce_fits _ [] hp]
  rfl

/-- A single payload is formatted in one step of TASK_RX and EMITted in the next (R256, R265). -/
theorem taskRx_formats_then_emits {p : List Byte} (hr : s.running = true) (hp : s.cfg.frameFits s.cfg.pkt p.length) :
    exec .taskRx { s with bridge := .format [p] } = .next (s.formatted p) ∧ exec .taskRx (s.formatted p) = .next (s.emitted p) :=
  ⟨(exec_taskRx_format (s := { s with bridge := .format [p] }) hr rfl).trans (formatNext_fits [] hp), bridgeResume_formatted hr p⟩

end

/-- Settles O44: what TASK_RX pops goes through REPORT's own steps, and a single payload is formatted, then EMITted. -/
theorem taskRxReportsOneElement : Obligations.TaskRxReportsOneElement := by
  unfold Obligations.TaskRxReportsOneElement
  intro s pending hr hs hb
  refine ⟨fun hq => ?_, fun m q hq hm hfits => ?_, fun m q hq hm hn => ?_⟩
  · rw [exec_taskRx_rx hr hb, taskRxStep, hq]
    rfl
  · obtain ⟨ps, hps⟩ := reportPayloads_exists hm hfits
    have hpop := exec_taskRx_pops hr hb hq hps
    refine ⟨fun ha => ?_, fun ha => ?_⟩
    · obtain ⟨u, hformat, hreport⟩ := taskRx_formats_as_report (s := { s with rxq := q }) hr hs ha hps
      exact ⟨_, u, hpop.trans (if_neg (Bool.eq_false_iff.1 ha)), rfl, hformat, hreport⟩
    · obtain ⟨v, hv⟩ := reportAtOnce_next (s := { s with rxq := q }) s.env.transportAvailable (reportPayloads_fit hs hps).2
      exact ⟨v, hpop.trans ((if_pos ha).trans hv), (exec_report_atOnce (s := { s with rxq := q }) hr ha hps).trans hv⟩
  · have hps := reportPayloads_one hm hn
    have hpop := exec_taskRx_pops hr hb hq hps
    have hfit := (reportPayloads_fit hs hps).2 _ List.mem_cons_self
    obtain ⟨hformat, hemit⟩ := taskRx_formats_then_emits (s := { s with rxq := q }) hr hfit
    refine ⟨fun ha => ⟨_, _, hpop.trans (if_neg (Bool.eq_false_iff.1 ha)), hformat, hemit⟩, fun ha => hpop.trans ((if_pos ha).trans ?_)⟩
    exact reportAtOnce_one (s := { s with rxq := q }) hfit

end Sys2Proof.Machine
end

section
/-! PROOFS. The family 43_egress: EMIT and TRANSPORT_READY, REPORT's refusals, its one packet or two, and the host's reassembly. -/

namespace Sys2Proof.Machine

/-! ### EMIT and TRANSPORT_READY, called directly -/

section
variable {s : State} {pkt : List Byte} {a : Bool}

/-- EMIT is taken where BRIDGE is at WAIT and the packet has `PKT` bytes (R265). -/
theorem exec_emit_ready (h : s.bridgeReady) (hp : pkt.length = s.cfg.pkt) : exec (.emit pkt a) s = .next (emitPacket pkt a s) := by
  rw [exec, execEmit, whenBridgeIdle_ready _ h, if_pos hp]

/-- A packet the transport cannot take is queued where EGQ has room (R265). -/
theorem emitPacket_queues (h : s.egq.length < s.cfg.egqCap) :
    emitPacket pkt false s = { s with egq := s.egq ++ [pkt], ret := .bool true } := by
  rcases emitPacket_cases pkt false s with ⟨ha, _⟩ | ⟨_, _, e⟩ | ⟨_, hfull, _⟩
  · cases ha
  · exact e
  · omega

/-- A packet the transport cannot take is dropped with its event where EGQ is full (R265). -/
theorem emitPacket_drops (h : s.cfg.egqCap ≤ s.egq.length) :
    emitPacket pkt false s = { s with raised := s.raised ++ [.backpressure .egressQueueFull], ret := .bool false } := by
  rcases emitPacket_cases pkt false s with ⟨ha, _⟩ | ⟨_, hroom, _⟩ | ⟨_, _, e⟩
  · cases ha
  · omega
  · exact e

/-- EMIT as one record update (R265). -/
theorem emitPacket_eq (pkt : List Byte) (a : Bool) (s : State) : emitPacket pkt a s = { s with
    outputs := if a then s.outputs ++ [.transportWrite pkt] else s.outputs
    egq := if a = false ∧ s.egq.length < s.cfg.egqCap then s.egq ++ [pkt] else s.egq
    raised := if a = false ∧ s.cfg.egqCap ≤ s.egq.length then s.raised ++ [.backpressure .egressQueueFull] else s.raised
    ret := .bool (a || decide (s.egq.length < s.cfg.egqCap)) } := by
  rcases emitPacket_cases pkt a s with ⟨rfl, e⟩ | ⟨rfl, hroom, e⟩ | ⟨rfl, hfull, e⟩ <;> rw [e]
  · simp
  · simp [hroom, Nat.not_le.2 hroom]
  · simp [hfull, Nat.not_lt.2 hfull]

/-- TRANSPORT_READY writes the oldest queued packet (R268). -/
theorem exec_transportReady_queued {q : List (List Byte)} (hr : s.running = true) (hq : s.egq = pkt :: q) :
    exec .transportReady s = .next { s with egq := q, outputs := s.outputs ++ [.transportWrite pkt] } := by
  rw [exec, execTransportReady, if_pos hr, hq]
  rfl

/-- TRANSPORT_READY's branch for an empty queue (R268). -/
theorem exec_transportReady_empty (hr : s.running = true) (hq : s.egq = []) : exec .transportReady s = .next (writeKeepAlive s) := by
  rw [exec, execTransportReady, if_pos hr, hq]
  rfl

/-- KEEPALIVE writes where nothing is queued, and waits otherwise (R120, R268). -/
theorem exec_keepAlive (hr : s.running = true) : exec .keepAlive s = .next (if s.egq = [] then writeKeepAlive s else s) := by
  rw [exec, execKeepAlive, hr, Bool.true_and]
  split_ifs with hd he he
  · rfl
  · exact absurd (of_decide_eq_true hd) he
  · exact absurd (decide_eq_true he) hd
  · rfl

/-- The keep-alive as one record update (R120). -/
theorem writeKeepAlive_eq (s : State) : writeKeepAlive s = { s with
    outputs := s.outputs ++ (if s.cfg.keepAlive then [.transportWrite (List.replicate s.cfg.pkt 0x00)] else []) } := by
  unfold writeKeepAlive
  split_ifs
  · rfl
  · rw [List.append_nil]

end

/-- Settles O55: EMIT's three outcomes. -/
theorem emitWritesQueuesOrDrops : Obligations.EmitWritesQueuesOrDrops := by
  unfold Obligations.EmitWritesQueuesOrDrops
  intro s pkt h hp
  refine ⟨exec_emit_ready h hp, fun hroom => ?_, fun hfull => ?_⟩
  · rw [exec_emit_ready h hp, emitPacket_queues hroom]
  · rw [exec_emit_ready h hp, emitPacket_drops hfull]

/-- Settles O56: by what EGQ holds. -/
theorem transportReadyDrainsTheQueue : Obligations.TransportReadyDrainsTheQueue := by
  unfold Obligations.TransportReadyDrainsTheQueue
  intro s hr
  refine ⟨fun pkt q hq => ⟨exec_transportReady_queued hr hq, ?_⟩, fun hq => ⟨?_, ?_⟩⟩
  · rw [exec_keepAlive hr, if_neg (by simp [hq])]
  · rw [exec_keepAlive hr, if_pos hq, exec_transportReady_empty hr hq]
  · rw [exec_transportReady_empty hr hq, writeKeepAlive_eq]

/-! ### REPORT's payloads -/

section
variable {s : State} {c : Config} {m : CanMessage}

/-- REPORT is refused where it has no payloads, with the reason (R261, R262). -/
theorem exec_report_refused {r : Refusal} (h : s.bridgeReady) (hps : reportPayloads s.cfg m = .error r) :
    exec (.report m) s = .refused r := by
  rw [exec, execReport, whenBridgeIdle_ready _ h, hps]

/-- A message of one payload is reported as BRIDGE emits that payload (R252). -/
theorem exec_report_one {p : List Byte} (h : s.bridgeReady) (hps : reportPayloads s.cfg m = .ok [p]) :
    exec (.report m) s = emitPayload p s := by
  rw [exec_report_begins h hps, emitPayload, whenBridgeIdle_ready _ h]

theorem reportPayloads_illFormed (h : ¬ m.wf) : reportPayloads c m = .error .illFormedMessage := if_neg h

theorem reportPayloads_oversized (hm : m.wf) (hn : c.cap1 < m.nbytes) (hf : c.fragMode = .refuse) :
    reportPayloads c m = .error .oversizedReport := by
  rw [reportPayloads, if_pos hm, if_neg (Nat.not_le.2 hn), hf]

/-- A message too long for one packet is reported by the two payloads of R260. -/
theorem reportPayloads_two (hm : m.wf) (hn : c.cap1 < m.nbytes) (hf : c.fragMode = .twoPacket) : reportPayloads c m =
    .ok [reportBytes (reportId m ||| 0x80) (reportIdent m) (BitVec.ofNat 8 m.nbytes) (m.payload.take c.cap1),
      contBytes (BitVec.ofNat 8 c.cap1) (m.payload.drop c.cap1)] := by
  rw [reportPayloads, if_pos hm, if_neg (Nat.not_le.2 hn), hf, take_nbytes hm]

/-- A report's payload, with the identifier field written out as the message's identifier (R115). -/
theorem reportBytes_reportIdent (id n : Byte) (m : CanMessage) (data : List Byte) :
    reportBytes id (reportIdent m) n data = [id] ++ leBytes 4 m.identifier.toNat ++ [n] ++ data := by
  rw [reportBytes, reportIdent_toNat]
  simp

end

/-- Settles O50: REPORT has no payloads in either case. -/
theorem reportRefusals : Obligations.ReportRefusals := by
  unfold Obligations.ReportRefusals
  intro s m h
  exact ⟨fun hm hn hf => exec_report_refused h (reportPayloads_oversized hm hn hf),
    fun hm => exec_report_refused h (reportPayloads_illFormed hm)⟩

/-! ### The host's reassembly -/

/-- A first fragment's id is one of the four of R117. -/
theorem reportId_first (m : CanMessage) : reportId m ||| 0x80 = 0xA0 ∨ reportId m ||| 0x80 = 0xA1 ∨
    reportId m ||| 0x80 = 0xA2 ∨ reportId m ||| 0x80 = 0xA3 := by
  unfold reportId
  cases m.msgFormat <;> cases m.idType <;> decide

/-- The host takes the mark `continued` off again (R260). -/
theorem reportId_unmark (m : CanMessage) : (reportId m ||| 0x80) &&& 0x7F = reportId m := by
  unfold reportId
  cases m.msgFormat <;> cases m.idType <;> rfl

/-- Two fragments whose offset and total are right are reassembled into the single-packet form (R260). -/
theorem reassemble_fragments {c : Config} {n off : Byte} {d1 d2 : List Byte} (seq : Nat) (m : CanMessage) (ident : BitVec 32)
    (hoff : off.toNat = d1.length) (hn : n.toNat = d1.length + d2.length) :
    reassemble c (seq, reportBytes (reportId m ||| 0x80) ident n d1) ((seq + 1) % c.seqMod, contBytes off d2) =
      some (reportBytes (reportId m) ident n (d1 ++ d2)) := by
  obtain ⟨b1, b2, b3, b4, -, hlayout⟩ := reportBytes_layout ident
  rw [hlayout, hlayout, contBytes, reassemble]
  exact (if_pos ⟨reportId_first m, rfl, rfl, hoff, hn⟩).trans (by rw [reportId_unmark])

/-- Settles O53: the offset and the total say where the payload was cut. -/
theorem fragmentsReassemble : Obligations.FragmentsReassemble := by
  unfold Obligations.FragmentsReassemble
  intro c m seq _ hm hn hf
  refine ⟨_, _, reportPayloads_two hm hn hf, ?_⟩
  have h64 : m.nbytes ≤ 64 := dlc2len_le _
  obtain ⟨-, hlen, -⟩ := hm
  have htake : (m.payload.take c.cap1).length = c.cap1 := by rw [List.length_take]; omega
  rw [reassemble_fragments seq m (reportIdent m), List.take_append_drop, reportBytes_reportIdent]
  · rw [htake, BitVec.toNat_ofNat]; omega
  · rw [htake, List.length_drop, BitVec.toNat_ofNat]; omega

/-! ### REPORT in one packet -/

section
variable {s : State} {p : List Byte}

theorem State.emitted_buf (s : State) (p : List Byte) : (s.emitted p).buf = packetBytes s.cfg s.seq p := by
  rw [State.emitted, emitPacket_frame]

theorem State.emitted_seq (s : State) (p : List Byte) : (s.emitted p).seq = (s.seq + 1) % s.cfg.seqMod := by
  rw [State.emitted, emitPacket_frame]

end

/-- Settles O48: the single payload is formatted, then EMITted. -/
theorem reportFormatsOnePacket : Obligations.ReportFormatsOnePacket := by
  unfold Obligations.ReportFormatsOnePacket
  intro s m h hs hm hn id p pkt formatted emitted
  have hps : reportPayloads s.cfg m = .ok [p] := reportPayloads_one hm hn
  have hfit := (reportPayloads_fit hs hps).2 p List.mem_cons_self
  have hlen : p.length = 6 + m.nbytes := by simp [p, ← hm.2.1]; omega
  have hpkt : packetBytes s.cfg s.seq p = pkt := by rw [packetBytes_eq, hlen, ← Nat.add_assoc]
  have hformatted : s.formatted p = formatted := by rw [State.formatted, hpkt]
  have hemitted : s.emitted p = emitted := by rw [State.emitted, emitPacket_eq, hpkt, ← h.2]
  have hreport : exec (.report m) s = .next (if s.cfg.atomicOps then emitted else formatted) := by
    rw [exec_report_one h hps, emitPayload_fits h hfit, hformatted, hemitted]
  refine ⟨hpkt ▸ packetBytes_length hfit.1, fun ha => ⟨hreport.trans (by rw [ha]; rfl), ?_⟩, fun ha => hreport.trans (by rw [if_pos ha])⟩
  rw [← hformatted, ← hemitted]
  exact bridgeResume_formatted h.1 p

section
variable {c : Config}

/-- The payload of R257's message: it fits one packet of 64 bytes. -/
theorem reportPayloads_example (hw : c.w = .two) (hpkt : c.pkt = 64) :
    reportPayloads c { identifier := 0x123, idType := .standard, msgFormat := .classic, dlcCode := 2, payload := [0xAA, 0xBB] } =
      .ok [[0x20, 0x23, 0x01, 0x00, 0x00, 0x02, 0xAA, 0xBB]] := by
  rw [reportPayloads_one (by decide)]
  · rfl
  · rw [Config.cap1, Config.ovh, hw, hpkt]
    decide

/-- R257's packet. -/
theorem packetBytes_example (hw : c.w = .two) (hpkt : c.pkt = 64) : packetBytes c 0 [0x20, 0x23, 0x01, 0x00, 0x00, 0x02, 0xAA, 0xBB] =
    [0xFF, 0x0E, 0x00, 0x00, 0x00, 0x20, 0x23, 0x01, 0x00, 0x00, 0x02, 0xAA, 0xBB, 0x48] ++ List.replicate 50 0x00 := by
  rw [packetBytes_eq, frameBytes, Config.ovh, hw, hpkt]
  rfl

end

/-- Settles O54: the packet's bytes, computed for the build of the example. -/
theorem workedReportExample : Obligations.WorkedReportExample := by
  unfold Obligations.WorkedReportExample
  intro s h hw hpkt hseq
  have hfit : s.cfg.frameFits s.cfg.pkt 8 := by
    rw [hpkt, Config.frameFits, Config.ovh, Config.seqMod, hw]
    decide
  have hnext : (s.seq + 1) % s.cfg.seqMod = 1 := by rw [hseq, Config.seqMod, hw]; rfl
  refine ⟨_, (exec_report_one h (reportPayloads_example hw hpkt)).trans (emitPayload_fits h hfit), ?_⟩
  rw [← packetBytes_example hw hpkt, ← hseq]
  split_ifs with ha
  · exact ⟨(State.emitted_seq s _).trans hnext, fun e => absurd ha (by simp [e]), State.emitted_buf s _⟩
  · exact ⟨hnext, fun _ => rfl, rfl⟩

/-! ### REPORT in two packets -/

/-- The state after a payload's packet is formatted in a step of its own, with payloads left (R256, R260). -/
def State.formattedOf (s : State) (p : List Byte) (left : List (List Byte)) : State :=
  { s with buf := packetBytes s.cfg s.seq p, seq := (s.seq + 1) % s.cfg.seqMod, bridge := .emit (packetBytes s.cfg s.seq p) left }

/-- BRIDGE at a further marker after a payload's packet is formatted and EMITted (R256, R265). -/
def State.afterPacket (s : State) (p : List Byte) (a : Bool) (b : BridgePc) : State :=
  { emitPacket (packetBytes s.cfg s.seq p) a s with
    buf := packetBytes s.cfg s.seq p, seq := (s.seq + 1) % s.cfg.seqMod, bridge := b }

section
variable {s : State} {p p1 p2 : List Byte} {a a1 a2 : Bool} {b : BridgePc}

@[simp] theorem State.afterPacket_cfg : (s.afterPacket p a b).cfg = s.cfg := emitPacket_cfg _ a s

@[simp] theorem State.afterPacket_env : (s.afterPacket p a b).env = s.env := by
  rw [State.afterPacket, emitPacket_frame]

@[simp] theorem State.afterPacket_running : (s.afterPacket p a b).running = s.running := by
  rw [State.afterPacket, emitPacket_frame]
  rfl

/-- EMIT of the packet just formatted (R265). -/
theorem emitPacket_formatted (c : BridgePc) :
    { emitPacket (packetBytes s.cfg s.seq p) a { s with
        buf := packetBytes s.cfg s.seq p, seq := (s.seq + 1) % s.cfg.seqMod, bridge := c } with bridge := b } = s.afterPacket p a b := by
  rw [emitPacket_set]
  rfl

theorem State.emitted_eq_afterPacket : s.emitted p = s.afterPacket p s.env.transportAvailable .wait :=
  emitPacket_formatted s.bridge

/-- The two packets of one report: the EMITs one after the other, the last buffer and two sequence numbers (R260). -/
theorem State.afterPacket_afterPacket : (s.afterPacket p1 a1 b).afterPacket p2 a2 .wait =
    { emitPacket (packetBytes s.cfg ((s.seq + 1) % s.cfg.seqMod) p2) a2 (emitPacket (packetBytes s.cfg s.seq p1) a1 s) with
      buf := packetBytes s.cfg ((s.seq + 1) % s.cfg.seqMod) p2
      seq := ((s.seq + 1) % s.cfg.seqMod + 1) % s.cfg.seqMod
      bridge := .wait } := by
  rw [State.afterPacket, State.afterPacket_cfg, State.afterPacket, emitPacket_set]

/-- One payload of a report that is one step (R46). -/
theorem reportAtOnce_cons (ps : List (List Byte)) (hp : s.cfg.frameFits s.cfg.pkt p.length) :
    reportAtOnce a (p :: ps) s = reportAtOnce s.env.transportAgain ps (s.afterPacket p a s.bridge) := by
  rw [reportAtOnce_fits a ps hp]
  exact congrArg (reportAtOnce s.env.transportAgain ps) (emitPacket_set _ a s _ _ s.bridge)

/-- The two packets of a report that is one step; the second EMIT has an availability of its own (R46, R260). -/
theorem reportAtOnce_two (h1 : s.cfg.frameFits s.cfg.pkt p1.length) (h2 : s.cfg.frameFits s.cfg.pkt p2.length) :
    reportAtOnce a [p1, p2] s = .next ((s.afterPacket p1 a s.bridge).afterPacket p2 s.env.transportAgain .wait) := by
  rw [reportAtOnce_cons [p2] h1, reportAtOnce_cons [] (by rwa [State.afterPacket_cfg])]
  rfl

/-- EMIT, taken after a payload is formatted, leaves the marker the payloads left call for (R260, R265). -/
theorem bridgeResume_formattedOf (hr : s.running = true) (p : List Byte) (left : List (List Byte)) :
    bridgeResume (s.formattedOf p left) = .next (s.afterPacket p s.env.transportAvailable (afterEmit left)) := by
  have hrun : (s.formattedOf p left).running = true := hr
  rw [bridgeResume_emit hrun rfl]
  exact congrArg Host.Outcome.next (emitPacket_formatted _)

/-- BRIDGE alone takes its next step where it is not at WAIT. -/
theorem runBridge_succ {t : State} {n : Nat} (hb : s.bridge ≠ .wait) (e : bridgeResume s = .next t) :
    runBridge (n + 1) s = runBridge n t := by
  rw [runBridge, if_neg hb, e]

/-- From the `second` marker BRIDGE formats the last payload and EMITs it (R260). -/
theorem runBridge_second (hr : s.running = true) (hb : s.bridge = .second [p]) (hp : s.cfg.frameFits s.cfg.pkt p.length) :
    runBridge 2 s = .next (s.emitted p) := by
  have hformat : bridgeResume s = .next (s.formatted p) := (bridgeResume_second hr hb).trans (formatNext_fits [] hp)
  rw [runBridge_succ (by simp [hb]) hformat, runBridge_succ (s := s.formatted p) nofun (bridgeResume_formatted hr p)]
  rfl

/-- A report's first packet is EMITted, and the second is formatted and EMITted after it (R260). -/
theorem runBridge_two (hr : s.running = true) (h2 : s.cfg.frameFits s.cfg.pkt p2.length) :
    runBridge 3 (s.formattedOf p1 [p2]) = .next ((s.afterPacket p1 s.env.transportAvailable (.second [p2])).afterPacket p2 s.env.transportAvailable .wait) := by
  rw [runBridge_succ (s := s.formattedOf p1 [p2]) nofun (bridgeResume_formattedOf hr p1 [p2]), afterEmit, runBridge_second (by rwa [State.afterPacket_running]) rfl (by rwa [State.afterPacket_cfg]),
    State.emitted_eq_afterPacket, State.afterPacket_env]

/-- A message of two payloads is reported by formatting the first; with ATOMIC_OPS on both packets are formatted and EMITted in the step (R46, R260). -/
theorem exec_report_two {m : CanMessage} (h : s.bridgeReady) (hps : reportPayloads s.cfg m = .ok [p1, p2])
    (h1 : s.cfg.frameFits s.cfg.pkt p1.length) (h2 : s.cfg.frameFits s.cfg.pkt p2.length) :
    exec (.report m) s = .next (if s.cfg.atomicOps then
      (s.afterPacket p1 s.env.transportAvailable .wait).afterPacket p2 s.env.transportAgain .wait else s.formattedOf p1 [p2]) := by
  rw [exec_report_begins h hps, beginReport]
  split_ifs with ha
  · rw [reportAtOnce_two h1 h2, h.2]
  · exact formatNext_fits [p2] h1

/-- A payload that fills the packet needs no padding (R256). -/
theorem packetBytes_full {c : Config} (seq : Nat) (h : c.ovh + p.length = c.pkt) : packetBytes c seq p = frameBytes c seq p := by
  rw [packetBytes_eq, h, Nat.sub_self]
  exact List.append_nil _

end

/-- Settles O49: both payloads fit, the first fills its packet, and each packet is formatted and EMITted in turn. -/
theorem reportFragmentsIntoTwoPackets : Obligations.ReportFragmentsIntoTwoPackets := by
  unfold Obligations.ReportFragmentsIntoTwoPackets
  intro s m h hs hm hn hf id p1 p2 second pkt1 pkt2 emitted
  have hps : reportPayloads s.cfg m = .ok [p1, p2] := by
    rw [reportPayloads_two hm hn hf, reportBytes_reportIdent, reportId_eq]
    rfl
  have hfit := (reportPayloads_fit hs hps).2
  have h1 := hfit p1 (by simp)
  have h2 := hfit p2 (by simp)
  have hlen : s.cfg.ovh + p1.length = s.cfg.pkt := by
    obtain ⟨-, -, h14, -⟩ := hs
    obtain ⟨-, hpayload, -⟩ := hm
    have hcap : s.cfg.cap1 = s.cfg.pkt - s.cfg.ovh - 6 := rfl
    simp [p1]
    omega
  have hpkt1 : packetBytes s.cfg s.seq p1 = pkt1 := packetBytes_full s.seq hlen
  have hpkt2 : packetBytes s.cfg second p2 = pkt2 := packetBytes_eq s.cfg second p2
  have hemitted (b : BridgePc) (a1 a2 : Bool) : (s.afterPacket p1 a1 b).afterPacket p2 a2 .wait = emitted a1 a2 := by
    rw [State.afterPacket_afterPacket, hpkt1, hpkt2]
  have hreport := exec_report_two h hps h1 h2
  refine ⟨hpkt1 ▸ packetBytes_length h1.1, hpkt2 ▸ packetBytes_length h2.1, fun ha => ⟨s.formattedOf p1 [p2], ?_, ?_, ?_⟩, fun ha => ?_⟩
  · rw [hreport, ha]
    rfl
  · rw [State.formattedOf, hpkt1]
  · rw [runBridge_two h.1 h2, hemitted]
  · rw [hreport, if_pos ha, hemitted]

end Sys2Proof.Machine
end

section
/-! PROOFS. The family 70_reset_and_hazards: INIT's reset state, and the stranded TX entry. -/

namespace Sys2Proof.Machine

/-! ### INIT -/

/-- INIT on a block not yet initialised creates everything; only BST and the events tell a failed one (R334, R336). -/
theorem exec_init {s : State} (ok : Bool) (h : s.inited = false) : exec (.init ok) s = .next { createAll s with
    bst := if ok then .ready else .halted
    raised := if ok then s.raised else s.raised ++ [.fatalInit] } := by
  rw [exec, execInit, if_neg (Bool.eq_false_iff.1 h)]
  cases ok <;> rfl

/-- Settles O10: every register but BST is created with its reset value. -/
theorem initCreatesResetState : Obligations.InitCreatesResetState := by
  unfold Obligations.InitCreatesResetState
  intro s ok h
  exact ⟨_, exec_init ok h, by simp [createAll, Notif.clear]⟩

/-! ### SEND between TASK_TX's two steps -/

section
variable {s : State} {m : CanMessage}

/-- TASK_WAIT of a TX-ready bit with ATOMIC_OPS off takes the bits and leaves TASK_TX's first step (R228, R294). -/
theorem exec_taskWait_tx (hr : s.running = true) (hb : s.bridge = .wait) (ha : s.cfg.atomicOps = false) (ht : s.notif.txReady = true) :
    exec .taskWait s = .next { s with notif := Notif.clear, bridge := .tx1 s.notif } := by
  obtain ⟨htx, -, -⟩ := taskWaitTakesAndClears s hr
  exact (htx hb ht).1 ha

/-- TASK_TX's first step finds an empty queue, and its second will clear TX_INFLIGHT (R231). -/
theorem exec_taskTx_tx1_empty {pending : Notif} (hr : s.running = true) (hb : s.bridge = .tx1 pending) (ha : s.cfg.atomicOps = false)
    (hq : s.txq = []) : exec .taskTx s = .next { s with bridge := .tx2 pending none } := by
  obtain ⟨-, -, -, hempty⟩ := taskTxPopsAndSubmits s pending hr
  exact (hempty hb hq).1 ha

/-- SEND into an empty queue with ATOMIC_OPS off: its first step pushes and leaves the second (R212). -/
theorem exec_send_empty (h : s.cmdReady) (ha : s.cfg.atomicOps = false) (hq : s.txq = []) (hm : m.wf) :
    exec (.send m) s = .next { s with txq := [m], cmdctx := [.send2 false] } := by
  rw [exec_send h hm, sendStep1_split m false (by simp [hq, Config.txqCap]) ha, State.pushFrame, State.queued, hq, h.2]
  rfl

/-- SEND's second step signals nothing while a transmission is in flight (R212). -/
theorem cmdResume_send2_inflight (hr : s.running = true) (hc : s.cmdctx = [.send2 false]) (hf : s.txInflight = true) :
    cmdResume s = .next { s with cmdctx := [], ret := .bool true } := by
  rw [cmdResume_handler hr hc rfl, handlerStep, sendStep2_direct rfl]
  simp [hf]

end

/-- Settles O47: TASK_TX finds the queue empty, SEND pushes and sees TX_INFLIGHT still set, so it does not signal, and then TASK_TX clears the flag. -/
theorem strandedEntryIsReachable : Obligations.StrandedEntryIsReachable := by
  unfold Obligations.StrandedEntryIsReachable
  intro s m h hb ha hq hf hn hm
  have hnext : afterTx s.notif = .wait := by rw [hn]; rfl
  exact ⟨_, _, _, _, _,
    exec_taskWait_tx h.1 hb ha (by rw [hn]),
    exec_taskTx_tx1_empty h.1 rfl ha hq,
    exec_send_empty h ha hq hm,
    cmdResume_send2_inflight h.1 rfl hf,
    exec_taskTx_tx2 h.1 rfl,
    rfl, rfl, rfl, hnext, rfl⟩

end Sys2Proof.Machine
end
